-- ==== Sys2Proof/Word.lean ====
section
/-! DEFINITION. The bit vectors of the block: the widths a register or a port has in the spec. -/

namespace Sys2Proof

/-- A timestamp, as the `TS` operand and `PREV_TS` hold one (R6, R15, R49). The hardware's width is the
build parameter `TSW`, 8 to 64; a vector of the largest width stands for every choice, and only its low
`TSW` bits are used (DESIGN CHOICE, log 2; safe). -/
abbrev Ts := BitVec 64

/-- A command word on the port `cmd` (R46): `4 + TSW` bits, at most 68. The bits above `TSW + 3` are no
wires of the port (DESIGN CHOICE, log 3; safe). -/
abbrev CmdWord := BitVec 68

/-- The 40-bit register `FRAME` (R16). -/
abbrev Frame := BitVec 40

/-- One cell of the frame array (R34). -/
abbrev Byte := BitVec 8

end Sys2Proof
end

