-- ==== Sys2Proof/Config.lean ====
section
/-! DEFINITION. The two build parameters of the block (R6). Both stay open: the spec gives their legal
ranges and defaults, and every statement holds for every value unless it names one. -/

namespace Sys2Proof

/-- The build parameters of R6, fixed when the block is built and on no port (R26). -/
structure Config where
  /-- `TSW`, the width in bits of a timestamp and of `PREV_TS`. -/
  tsw : Nat
  /-- `THRESHOLD`, an unsigned number of time units. -/
  threshold : Nat
  deriving DecidableEq, Repr

/-- The legal ranges of R6: `TSW` 8 to 64, `THRESHOLD` 0 to `2^TSW - 1`. -/
abbrev Config.legal (c : Config) : Prop :=
  8 ≤ c.tsw ∧ c.tsw ≤ 64 ∧ c.threshold < 2 ^ c.tsw

/-- The defaults of R6: `TSW = 32`, `THRESHOLD = 35`. -/
def Config.defaults : Config := { tsw := 32, threshold := 35 }

end Sys2Proof
end

