-- ==== Sys2Proof/Syntax.lean ====
section
/-! DEFINITION. The commands of the block, one constructor per row of opcode_table.json (R47). -/

namespace Sys2Proof

/-- The direction of an Edge Event (R48): Rising is low to high, Falling is high to low. -/
inductive Dir where
  | falling
  | rising
  deriving DecidableEq, Repr

/-- The commands of R47. Reserved fields (R53) are no operands, so no constructor carries them. -/
inductive Instr where
  /-- `NOP` (R59). -/
  | nop
  /-- `START` (R60). -/
  | start
  /-- `EDGE dir, ts` (R64): one Edge Event. -/
  | edge (dir : Dir) (ts : Ts)
  /-- `FINISH to` (R74): `timeout` is the flag TO, 1 when the capture was ended by the deadline (R48). -/
  | finish (timeout : Bool)
  /-- `CLEAR` (R61). -/
  | clear
  /-- `RSVD5` (R62). -/
  | rsvd5
  /-- `RSVD6` (R62). -/
  | rsvd6
  /-- `RSVD7` (R62). -/
  | rsvd7
  deriving DecidableEq, Repr

/-- The mnemonic of R47 and opcode_table.json. -/
def Instr.mnemonic : Instr → String
  | .nop => "NOP"
  | .start => "START"
  | .edge _ _ => "EDGE"
  | .finish _ => "FINISH"
  | .clear => "CLEAR"
  | .rsvd5 => "RSVD5"
  | .rsvd6 => "RSVD6"
  | .rsvd7 => "RSVD7"

end Sys2Proof
end

