-- ==== Sys2Proof/WellFormed.lean ====
section
/-! DEFINITION. Which commands have an encoding at a given `TSW`. -/

namespace Sys2Proof

/-- A command has an encoding of `4 + TSW` bits when its timestamp, if it carries one, is an unsigned
`TSW`-bit number (R49, R55: `t` is in 0 to `2^TSW - 1`). Every other command always has one. -/
def Instr.wellFormed (tsw : Nat) : Instr → Bool
  | .edge _ ts => decide (ts.toNat < 2 ^ tsw)
  | .nop | .start | .finish _ | .clear | .rsvd5 | .rsvd6 | .rsvd7 => true

end Sys2Proof
end

