-- ==== Sys2Proof/Decode.lean ====
section
/-! DEFINITION. The command word's layout, the decoder and the encoder (R46 to R54), and the opcode
table as data. -/

namespace Sys2Proof

/-! ## The fields of a command word -/

/-- The slice `w[lo + len - 1 : lo]` as an unsigned number (R8). -/
def wordField (w : CmdWord) (lo len : Nat) : Nat := w.toNat / 2 ^ lo % 2 ^ len

/-- `OP = cmd[TSW+3 : TSW+1]` (R46). -/
def opField (tsw : Nat) (w : CmdWord) : Nat := wordField w (tsw + 1) 3

/-- `F = cmd[TSW]` (R46). -/
def flagField (tsw : Nat) (w : CmdWord) : Bool := wordField w tsw 1 == 1

/-- `TS = cmd[TSW-1 : 0]` (R46), used as it stands (R49). -/
def tsField (tsw : Nat) (w : CmdWord) : Ts := BitVec.ofNat 64 (wordField w 0 tsw)

/-- The direction an `F` bit names: 1 Rising, 0 Falling (R48). -/
def Dir.ofBit : Bool → Dir
  | true => .rising
  | false => .falling

/-- The `F` bit of a direction (R48). -/
def Dir.toBit : Dir → Bool
  | .rising => true
  | .falling => false

/-! ## Decoding -/

/-- R51: every value of `cmd` decodes to exactly one command. Reserved fields are ignored (R53); the
opcodes 5, 6 and 7 are commands of their own (R52). -/
def decode (tsw : Nat) (w : CmdWord) : Instr :=
  match opField tsw w with
  | 0 => .nop
  | 1 => .start
  | 2 => .edge (Dir.ofBit (flagField tsw w)) (tsField tsw w)
  | 3 => .finish (flagField tsw w)
  | 4 => .clear
  | 5 => .rsvd5
  | 6 => .rsvd6
  | _ => .rsvd7

/-- Why a number is no command word. The decoder of the block itself rejects nothing (R51). -/
inductive DecodeReject where
  /-- The number has a bit above `TSW + 3`, where the port `cmd` has no wire (R27, R46). -/
  | widerThanPort
  deriving DecidableEq, Repr

/-- The decoder on any number: a number of at most `4 + TSW` bits is a command word, any other is none. -/
def decodeNat (tsw w : Nat) : Except DecodeReject Instr :=
  if w < 2 ^ (tsw + 4) then .ok (decode tsw (BitVec.ofNat 68 w)) else .error .widerThanPort

/-! ## Encoding -/

/-- The word with the given `OP`, `F` and `TS` fields (R46, R50). -/
def packWord (tsw op : Nat) (f : Bool) (ts : Nat) : CmdWord :=
  BitVec.ofNat 68 (op * 2 ^ (tsw + 1) + f.toNat * 2 ^ tsw + ts)

/-- The canonical word of a command, its reserved bits 0 (R53, R55). -/
def encode (tsw : Nat) : Instr → CmdWord
  | .nop => packWord tsw 0 false 0
  | .start => packWord tsw 1 false 0
  | .edge dir ts => packWord tsw 2 dir.toBit ts.toNat
  | .finish timeout => packWord tsw 3 timeout 0
  | .clear => packWord tsw 4 false 0
  | .rsvd5 => packWord tsw 5 false 0
  | .rsvd6 => packWord tsw 6 false 0
  | .rsvd7 => packWord tsw 7 false 0

/-! ## The opcode table -/

/-- One row of opcode_table.json, whose words are written for `TSW = 32` (R50). -/
structure OpcodeRow where
  mnemonic : String
  pattern : BitVec 36
  mask : BitVec 36
  deriving DecidableEq, Repr

/-- opcode_table.json, row for row. -/
def opcodeTable : List OpcodeRow :=
  [ { mnemonic := "NOP", pattern := 0x000000000, mask := 0xE00000000 },
    { mnemonic := "START", pattern := 0x200000000, mask := 0xE00000000 },
    { mnemonic := "EDGE", pattern := 0x400000000, mask := 0xE00000000 },
    { mnemonic := "FINISH", pattern := 0x600000000, mask := 0xE00000000 },
    { mnemonic := "CLEAR", pattern := 0x800000000, mask := 0xE00000000 },
    { mnemonic := "RSVD5", pattern := 0xA00000000, mask := 0xE00000000 },
    { mnemonic := "RSVD6", pattern := 0xC00000000, mask := 0xE00000000 },
    { mnemonic := "RSVD7", pattern := 0xE00000000, mask := 0xE00000000 } ]

/-- The instruction the decoder reads from a word numbered as opcode_table.json numbers it, at the
table's `TSW = 32`; the word's bits from `nbits` up are 0. A number wider than the 36-bit port is no
command word (log 13). -/
def decodeTableWord (nbits w : Nat) : Option Instr := (decodeNat 32 (w % 2 ^ nbits)).toOption

end Sys2Proof
end

