-- ==== Sys2Proof/Machine/State.lean ====
section
/-! DEFINITION. The state of the block (R13) as plain data, the reasons a step can stop, and reset (R31). -/

namespace Sys2Proof.Machine

/-- The values of `PHASE` (R20); their codes are in Ports.lean. -/
inductive Phase where
  | idle
  | capturing
  | validated
  | rejected
  deriving DecidableEq, Repr

/-- The values of `ERR` (R84); their codes are in Ports.lean. -/
inductive ErrKind where
  | none
  | captureTimeout
  | frameLengthError
  | checksumError
  deriving DecidableEq, Repr

/-- What the input ports `rst` and `cmd` carry at one rising edge of `clk` (R27). -/
structure PortSample where
  rst : Bool
  cmd : CmdWord
  deriving DecidableEq, Repr

/-- The eleven registers of R13, and beside them the two things the block's step takes besides its
registers: the build parameters of R6 (log 1) and what the driver puts on the input ports (log 4). -/
structure State where
  /-- `PREV_TS` (R15). -/
  prevTs : Ts
  /-- `FRAME` (R16). -/
  frame : Frame
  /-- `HUM` (R17). -/
  hum : BitVec 16
  /-- `TEMP` (R18). -/
  temp : BitVec 16
  /-- `PHASE` (R20). -/
  phase : Phase
  /-- `EVCNT` (R21). -/
  evcnt : BitVec 7
  /-- `BITCNT` (R22). -/
  bitcnt : BitVec 6
  /-- `OVF` (R23). -/
  ovf : Bool
  /-- `BSTB` (R24). -/
  bstb : Bool
  /-- `BVAL` (R24). -/
  bval : Bool
  /-- `ERR` (R25). -/
  err : ErrKind
  /-- `TSW` and `THRESHOLD`: configuration, which no step writes (R6, R26; DESIGN CHOICE, log 1; safe). -/
  cfg : Config
  /-- The input ports at the coming clock edges, the next one first (R27; DESIGN CHOICE, log 4; safe). -/
  inputs : List PortSample
  deriving DecidableEq, Repr

/-- The block has no fault: "no trap and no hang" (R10), and no command can fail to execute (R58, R84).
Nobody raises one, so the type has no constructor; that is safe. -/
inductive Fault where
  deriving DecidableEq, Repr

/-- Why a command would have no meaning. -/
inductive Refusal where
  /-- Raised only by an arm of `exec` for a command not modelled yet, by its mnemonic; no arm raises it
  now. Safe: the model stops. -/
  | notModelled (mnemonic : String)
  deriving DecidableEq, Repr

/-- R31: after a reset step every register holds 0. The parameters are R6's defaults, and the driver has
placed nothing on the ports yet. -/
def State.reset : State :=
  { prevTs := 0, frame := 0, hum := 0, temp := 0, phase := .idle, evcnt := 0, bitcnt := 0,
    ovf := false, bstb := false, bval := false, err := .none,
    cfg := Config.defaults, inputs := [] }

end Sys2Proof.Machine
end

