-- ==== Sys2Proof/Machine/Operands.lean ====
section
/-! DEFINITION. Operand forms and the arithmetic on them: the timestamp operand (R49), the elapsed time
(R67), the threshold comparator (R68), and the fixed numbers of R7. -/

namespace Sys2Proof.Machine

/-- `NBITS`, data bits per frame (R7). -/
abbrev nBits : Nat := 40

/-- `NBYTES`, bytes per frame (R7). -/
abbrev nBytes : Nat := 5

/-- `NSKIP`, leading events excluded as handshake artifacts (R7). -/
abbrev nSkip : Nat := 2

/-- `MIN_EVENTS`, the least number of events of a well-formed capture (R7). -/
abbrev minEvents : Nat := 82

/-- `EVCNT_MAX`, the saturation value of the event counter (R7). -/
abbrev evcntMax : BitVec 7 := 127

/-- The number a `TSW`-bit register holds when it is given `ts`: the low `TSW` bits (R13, R49; log 2). -/
def truncTs (c : Config) (ts : Ts) : Ts := BitVec.ofNat 64 (ts.toNat % 2 ^ c.tsw)

/-- R67: `elapsed = (ts - PREV_TS) mod 2^TSW`, the subtraction with its borrow discarded. -/
def elapsed (c : Config) (ts prev : Ts) : Nat := (ts - prev).toNat % 2 ^ c.tsw

/-- R68: the decoded bit is 1 if `elapsed > THRESHOLD`, else 0; unsigned and strict. -/
def classify (c : Config) (e : Nat) : Bool := decide (c.threshold < e)

/-- `sat_inc(v, max)` (R9). -/
def satInc {w : Nat} (v max : BitVec w) : BitVec w := if v < max then v + 1 else max

/-- R65, R66: an event decodes a bit if and only if two handshake artifacts and the seed of the first
pair went before it (`EVCNT >= 3`) and it is Falling. -/
def decodesBit (evcnt : BitVec 7) (dir : Dir) : Bool :=
  decide (nSkip + 1 ≤ evcnt.toNat) && decide (dir = .falling)

end Sys2Proof.Machine
end

