-- ==== Sys2Proof/Machine/Flags.lean ====
section
/-! DEFINITION. The flags `BSTB`, `BVAL` (R24) and `OVF` (R23). -/

namespace Sys2Proof.Machine

/-- The default of every command step: `BSTB <- 0 ; BVAL <- 0` (R58). -/
def State.clearStrobes (s : State) : State := { s with bstb := false, bval := false }

/-- A decoded bit is reported: `BSTB <- 1 ; BVAL <- b` (R64, R69). -/
def State.strobe (b : Bool) (s : State) : State := { s with bstb := true, bval := b }

/-- `OVF <- 1` (R69). -/
def State.setOvf (s : State) : State := { s with ovf := true }

end Sys2Proof.Machine
end

