-- ==== Sys2Proof/Machine/Ops.lean ====
section
/-! DEFINITION. The named operations over the frame array and the registers, the reject sequence (the
block's taking of an exception, R88) and the clearing that leaves a finished cycle (R92). -/

namespace Sys2Proof.Machine

/-! ## The frame array (R34 to R41) -/

/-- `B[j] = FRAME[39 - 8j : 32 - 8j]` for `j` = 0 to 4 (R16). -/
def frameByte (f : Frame) (j : Nat) : Byte := f.extractLsb' (32 - 8 * j) 8

/-- The bit at stream position `k`, 0 to 39: `FRAME[39 - k]` (R34). -/
def frameBit (f : Frame) (k : Nat) : Bool := f.getLsbD (39 - k)

/-- `FrameBitWrite(k, b)` for `k` in 0 to 39: `FRAME[39 - k] <- b`, all other bits unchanged (R36). There
is no position above 39, and nothing is written there (DESIGN CHOICE, log 9; safe). -/
def frameBitWrite (f : Frame) (k : Nat) (b : Bool) : Frame :=
  if k < nBits then
    (f &&& ~~~(1#40 <<< (39 - k))) ||| ((BitVec.ofBool b).setWidth 40 <<< (39 - k))
  else f

/-- `MemRead(addr, n) = FRAME[39 - 8·addr : 40 - 8·(addr + n)]` for `addr` in 0 to 4 and `n` in 1 to
`5 - addr` (R37): the `n` bytes from `addr` up, big-endian. Outside those ranges: log 9. -/
def memRead (f : Frame) (addr n : Nat) : BitVec (8 * n) :=
  f.extractLsb' (40 - 8 * (addr + n)) (8 * n)

/-- `MemWrite(addr, n, v)` (R37): the same bits written from an `8n`-bit `v`. No command performs it. -/
def memWrite (f : Frame) (addr n : Nat) (v : BitVec (8 * n)) : Frame :=
  let lo := 40 - 8 * (addr + n)
  (f &&& ~~~((BitVec.allOnes (8 * n)).setWidth 40 <<< lo)) ||| (v.setWidth 40 <<< lo)

/-- `(B[0] + B[1] + B[2] + B[3]) mod 256`, an 8-bit adder with carries discarded (R77). -/
def checksum (f : Frame) : Byte :=
  frameByte f 0 + frameByte f 1 + frameByte f 2 + frameByte f 3

/-! ## Registers -/

/-- The data registers by their reference numbers `x[0]` to `x[3]`, zero-extended (R14). No command names
a register by number. -/
def State.dataReg (s : State) : Fin 4 → BitVec 64
  | 0 => s.prevTs
  | 1 => s.frame.setWidth 64
  | 2 => s.hum.setWidth 64
  | 3 => s.temp.setWidth 64

/-- `PREV_TS <- ts` (R70), the register `TSW` bits wide (R13). -/
def State.setPrevTs (ts : Ts) (s : State) : State := { s with prevTs := truncTs s.cfg ts }

/-- `EVCNT <- sat_inc(EVCNT, 127)` (R70). -/
def State.countEvent (s : State) : State := { s with evcnt := satInc s.evcnt evcntMax }

/-- `FrameBitWrite(BITCNT, b) ; BITCNT <- BITCNT + 1` (R69). -/
def State.storeBit (b : Bool) (s : State) : State :=
  { s with frame := frameBitWrite s.frame s.bitcnt.toNat b, bitcnt := s.bitcnt + 1 }

/-- The accumulator (R69): while `BITCNT < 40` the bit is stored, after that it is dropped and `OVF`
set. -/
def State.accumulate (b : Bool) (s : State) : State :=
  if s.bitcnt.toNat < nBits then s.storeBit b else s.setOvf

/-- Every register `<- 0` (R61, R99), which is `PHASE <- Idle`. The parameters and the ports are no
registers. -/
def State.clearRegisters (s : State) : State :=
  { s with prevTs := 0, frame := 0, hum := 0, temp := 0, phase := .idle, evcnt := 0, bitcnt := 0,
           ovf := false, bstb := false, bval := false, err := .none }

/-- The opening of a cycle (R60): every register `<- 0`, then `PHASE <- Capturing`. -/
def State.openCycle (s : State) : State := { s.clearRegisters with phase := .capturing }

/-! ## The end of a cycle -/

/-- The reject sequence `raise Reject(code)` (R88): `PHASE <- Rejected ; ERR <- code ; HUM <- 0 ;
TEMP <- 0`. Nothing is saved, and every other register keeps its value. -/
def State.reject (code : ErrKind) (s : State) : State :=
  { s with phase := .rejected, err := code, hum := 0, temp := 0 }

/-- The Reading (R78): `HUM` and `TEMP` are the two 16-bit fields of the frame; `ERR <- 0 ;
PHASE <- Validated` (R74). -/
def State.publish (s : State) : State :=
  { s with hum := memRead s.frame 0 2, temp := memRead s.frame 2 2, err := .none,
           phase := .validated }

end Sys2Proof.Machine
end

