-- ==== Sys2Proof/Machine/CycleControl.lean ====
section
/-! DEFINITION. The cycle-control commands `NOP`, `START`, `CLEAR` and the reserved opcodes
(40_cycle_control.md). Each is one command step with `rst = 0`. -/

namespace Sys2Proof.Machine

/-- `NOP` (R59). -/
def execNop (s : State) : Host.Outcome State Fault Refusal := .next s.clearStrobes

/-- `START` (R60): acts the same in every phase. -/
def execStart (s : State) : Host.Outcome State Fault Refusal := .next s.openCycle

/-- `CLEAR` (R61): acts the same in every phase. -/
def execClear (s : State) : Host.Outcome State Fault Refusal := .next s.clearRegisters

/-- `RSVD5` (R62): as `NOP`. -/
def execRsvd5 (s : State) : Host.Outcome State Fault Refusal := .next s.clearStrobes

/-- `RSVD6` (R62): as `NOP`. -/
def execRsvd6 (s : State) : Host.Outcome State Fault Refusal := .next s.clearStrobes

/-- `RSVD7` (R62): as `NOP`. -/
def execRsvd7 (s : State) : Host.Outcome State Fault Refusal := .next s.clearStrobes

end Sys2Proof.Machine
end

