-- ==== Sys2Proof/Machine/EdgeToBit.lean ====
section
/-! DEFINITION. The `EDGE` command: the threshold comparator and the bit accumulator
(41_edge_to_bit.md). -/

namespace Sys2Proof.Machine

/-- The decoded bit `b` is reported on the strobes and accumulated (R69). -/
def State.deliverBit (b : Bool) (s : State) : State := (s.strobe b).accumulate b

/-- R64 in `PHASE = Capturing`, the strobes' default already applied: the bit, if the event decodes one,
then `PREV_TS <- ts` and the event count, always (R70). -/
def State.captureEdge (dir : Dir) (ts : Ts) (s : State) : State :=
  let decoded :=
    if decodesBit s.evcnt dir then s.deliverBit (classify s.cfg (elapsed s.cfg ts s.prevTs)) else s
  (decoded.setPrevTs ts).countEvent

/-- `EDGE dir, ts` (R64); outside `Capturing` it acts as `NOP` (R71). -/
def execEdge (dir : Dir) (ts : Ts) (s : State) : Host.Outcome State Fault Refusal :=
  if s.phase = .capturing then .next (s.clearStrobes.captureEdge dir ts) else .next s.clearStrobes

end Sys2Proof.Machine
end

