-- ==== Sys2Proof/Machine/FrameValidator.lean ====
section
/-! DEFINITION. The `FINISH` command: length check, checksum and Reading (42_frame_validator.md). -/

namespace Sys2Proof.Machine

/-- R75: `to = 1 and EVCNT < 82`. -/
def State.timedOut (timeout : Bool) (s : State) : Bool := timeout && decide (s.evcnt.toNat < minEvents)

/-- R76: the frame has the right length if and only if `EVCNT >= 82`, `BITCNT = 40` and `OVF = 0`. -/
def State.rightLength (s : State) : Bool :=
  decide (minEvents ≤ s.evcnt.toNat) && decide (s.bitcnt.toNat = nBits) && !s.ovf

/-- R77: `B[4]` equals the sum of the four data bytes modulo 256. -/
def State.checksumOk (s : State) : Bool := decide (frameByte s.frame 4 = checksum s.frame)

/-- The verdict of R74, its checks in the order of R90: the first that fails names the error kind. -/
def State.verdict (timeout : Bool) (s : State) : ErrKind :=
  if s.timedOut timeout then .captureTimeout
  else if !s.rightLength then .frameLengthError
  else if !s.checksumOk then .checksumError
  else .none

/-- R74 in `PHASE = Capturing`, the strobes' default already applied. -/
def State.judge (timeout : Bool) (s : State) : State :=
  match s.verdict timeout with
  | .none => s.publish
  | .captureTimeout => s.reject .captureTimeout
  | .frameLengthError => s.reject .frameLengthError
  | .checksumError => s.reject .checksumError

/-- `FINISH to` (R74); outside `Capturing` it acts as `NOP` (R80). -/
def execFinish (timeout : Bool) (s : State) : Host.Outcome State Fault Refusal :=
  if s.phase = .capturing then .next (s.clearStrobes.judge timeout) else .next s.clearStrobes

end Sys2Proof.Machine
end

