-- ==== Sys2Proof/Machine/Dispatch.lean ====
section
/-! DEFINITION. One arm per command: what the block does in a step with `rst = 0` (R58). -/

namespace Sys2Proof.Machine

def exec (i : Instr) (s : State) : Host.Outcome State Fault Refusal :=
  match i with
  | .nop => Sys2Proof.Machine.execNop s
  | .start => Sys2Proof.Machine.execStart s
  | .edge dir ts => Sys2Proof.Machine.execEdge dir ts s
  | .finish timeout => Sys2Proof.Machine.execFinish timeout s
  | .clear => Sys2Proof.Machine.execClear s
  | .rsvd5 => Sys2Proof.Machine.execRsvd5 s
  | .rsvd6 => Sys2Proof.Machine.execRsvd6 s
  | .rsvd7 => Sys2Proof.Machine.execRsvd7 s

end Sys2Proof.Machine
end

