-- ==== Sys2Proof/Machine/Ports.lean ====
section
/-! DEFINITION. The input ports (R27) and the output ports (R28) of the block. -/

namespace Sys2Proof.Machine

/-! ## Inputs -/

/-- A clock edge at which the driver has nothing to say: `rst = 0` and a `NOP`, the all-zero word
(R27, R47; DEDUCED, log 5; safe). -/
def idleSample : PortSample := { rst := false, cmd := 0 }

/-- What the ports carry at this clock edge. -/
def State.sample (s : State) : PortSample := s.inputs.headD idleSample

/-- The clock edge has passed: the next sample is the one after. -/
def State.consume (s : State) : State := { s with inputs := s.inputs.tail }

/-- A word laid out for `TSW = 32`, its `F` and `OP` fields moved to where a block of another `TSW` has
them and its `TS` field cut to `TSW` bits (R50). At `TSW = 32` a 36-bit word is left as it is. -/
def relayoutWord (tsw w : Nat) : CmdWord :=
  BitVec.ofNat 68 (w / 2 ^ 32 % 2 ^ 4 * 2 ^ tsw + w % 2 ^ 32 % 2 ^ tsw)

/-! ## Outputs -/

/-- The 2-bit code of a phase (R20). -/
def Phase.code : Phase → BitVec 2
  | .idle => 0
  | .capturing => 1
  | .validated => 2
  | .rejected => 3

/-- The 2-bit code of an error kind (R84). -/
def ErrKind.code : ErrKind → BitVec 2
  | .none => 0
  | .captureTimeout => 1
  | .frameLengthError => 2
  | .checksumError => 3

/-- The output ports of R28. -/
structure Outputs where
  phase : BitVec 2
  err : BitVec 2
  done : Bool
  valid : Bool
  humidity : BitVec 16
  temperature : BitVec 16
  bitStb : Bool
  bitVal : Bool
  deriving DecidableEq, Repr

/-- A cycle is finished: `PHASE` is `Validated` or `Rejected` (R11, R28). -/
def State.done (s : State) : Bool := s.phase == .validated || s.phase == .rejected

/-- R28: each port is a pure function of the state after the most recent step. -/
def State.outputs (s : State) : Outputs :=
  { phase := s.phase.code, err := s.err.code, done := s.done, valid := s.phase == .validated,
    humidity := s.hum, temperature := s.temp, bitStb := s.bstb, bitVal := s.bval }

end Sys2Proof.Machine
end

