-- ==== Sys2Proof/Machine/Step.lean ====
section
/-! DEFINITION. One rising edge of `clk` (R58), and how the host places a command on the port. -/

namespace Sys2Proof.Machine

/-- R58: the ports are sampled; with `rst = 1` every register becomes 0 and the command is not executed
(R99); with `rst = 0` the command on `cmd` is executed. -/
def step (s : State) : Host.Outcome State Fault Refusal :=
  if s.sample.rst then .next s.consume.clearRegisters
  else exec (decode s.cfg.tsw s.sample.cmd) s.consume

/-- The state whose next clock edge carries the table word `w` with `rst = 0`, in place of whatever the
driver had there; every later sample stays (log 6). The word is laid out for the block's own `TSW`. -/
def State.withFetchWord (s : State) (nbits w : Nat) : State :=
  { s with inputs := { rst := false, cmd := relayoutWord s.cfg.tsw (w % 2 ^ nbits) } :: s.inputs.tail }

end Sys2Proof.Machine
end

