-- ==== Sys2Proof/Machine/Batch.lean ====
section
/-! DEFINITION. The source's batch definitions that the streaming block must agree with: the bit
sequence of a Capture Window (R72; step 1 of the contract in 41_edge_to_bit.md) and the packing of bits
into nibbles and bytes (R35; steps 2 and 3). -/

namespace Sys2Proof.Machine

/-- An Edge Event: the operands of one `EDGE` command (00_scope.md, glossary). -/
structure Event where
  dir : Dir
  ts : Ts
  deriving DecidableEq, Repr

/-- The adjacent pairs of a sequence, overlapping (R66). -/
def adjacentPairs {α : Type} : List α → List (α × α)
  | a :: b :: rest => (a, b) :: adjacentPairs (b :: rest)
  | _ => []

/-- The bit a pair yields, if its second event is Falling (R66, R67, R68). -/
def pairBit (c : Config) (p : Event × Event) : Option Bool :=
  match p.2.dir with
  | .falling => some (classify c (elapsed c p.2.ts p.1.ts))
  | .rising => none

/-- The sequence `S` of R72: drop the first two events, then one bit for each adjacent pair of remaining
events whose second event is Falling, in order. -/
def batchBits (c : Config) (window : List Event) : List Bool :=
  (adjacentPairs (window.drop nSkip)).filterMap (pairBit c)

/-- The sequence `S` as R72 writes it: for `i` from 3 to `n - 1` in order, for each `i` whose event is
Falling, the bit `[(ts(e(i)) - ts(e(i-1))) mod 2^TSW > THRESHOLD]`. -/
def indexedBits (c : Config) (window : List Event) : List Bool :=
  (List.range window.length).filterMap fun i =>
    match window[i - 1]?, window[i]? with
    | some previous, some current =>
        if 3 ≤ i ∧ current.dir = .falling then
          some (decide (c.threshold < elapsed c current.ts previous.ts))
        else none
    | _, _ => none

/-- The directions of a window alternate (R72). -/
def alternates (window : List Event) : Bool :=
  (adjacentPairs window).all fun p => p.1.dir != p.2.dir

/-- Step 2 of the packing (R35): `bit₀·8 + bit₁·4 + bit₂·2 + bit₃` for each complete group of four. A
partial group forms no number (R39). -/
def nibbles : List Bool → List Nat
  | b0 :: b1 :: b2 :: b3 :: rest =>
      (b0.toNat * 8 + b1.toNat * 4 + b2.toNat * 2 + b3.toNat) :: nibbles rest
  | _ => []

/-- Step 3 of the packing (R35): `high·16 + low` for each complete pair of nibbles. -/
def nibblePairs : List Nat → List Nat
  | high :: low :: rest => (high * 16 + low) :: nibblePairs rest
  | _ => []

/-- The source's "byte-equivalent integers" of a bit sequence (R35, R72). -/
def packedBytes (bits : List Bool) : List Nat := nibblePairs (nibbles bits)

/-- The Edge Event a command word delivers, if it is an `EDGE`. -/
def eventOf (tsw : Nat) (w : CmdWord) : Option Event :=
  match decode tsw w with
  | .edge dir ts => some { dir := dir, ts := ts }
  | _ => none

/-- The Edge Events a sequence of command words delivers, in order. -/
def eventsOf (tsw : Nat) (ws : List CmdWord) : List Event := ws.filterMap (eventOf tsw)

/-- A command that may stand inside a Capture Window (R72): an `EDGE`, a `NOP` or a reserved opcode. -/
def insideWindow : Instr → Bool
  | .edge _ _ | .nop | .rsvd5 | .rsvd6 | .rsvd7 => true
  | .start | .finish _ | .clear => false

/-- The ports with `rst = 0` and the given command word. -/
def commandSample (w : CmdWord) : PortSample := { rst := false, cmd := w }

end Sys2Proof.Machine
end

