-- ==== Sys2Proof/Machine/Driver.lean ====
section
/-! DEFINITION. The driver's duties of R112, as named premises a claim may take. The block checks none of
them (70_reset_and_hazards.md); its response is defined whether they are kept or not. A duty is stated
over a finite sequence of port samples (log 14). -/

namespace Sys2Proof.Machine

/-! ## Where the driver stands in a measurement -/

/-- The driver's own place in a measurement, as its samples alone fix it. -/
inductive DriverPlace where
  /-- No capture is open. -/
  | outside
  /-- `START` has been issued and no `EDGE` since. -/
  | opened
  /-- At least one `EDGE` has been issued since `START`, and no `FINISH`. -/
  | running
  deriving DecidableEq, Repr

/-- The driver's place after one command. -/
def placeAfterCommand : Instr → DriverPlace → DriverPlace
  | .start, _ => .opened
  | .clear, _ => .outside
  | .finish _, _ => .outside
  | .edge _ _, .opened => .running
  | .edge _ _, p => p
  | .nop, p | .rsvd5, p | .rsvd6, p | .rsvd7, p => p

/-- The driver's place after one sample. -/
def placeAfter (tsw : Nat) (x : PortSample) (p : DriverPlace) : DriverPlace :=
  if x.rst then .outside else placeAfterCommand (decode tsw x.cmd) p

/-- The driver's place after a sequence of samples. -/
def placeAfterAll (tsw : Nat) (xs : List PortSample) (p : DriverPlace) : DriverPlace :=
  xs.foldl (fun q x => placeAfter tsw x q) p

/-! ## The duties -/

/-- `ResetFirst` (R101): one reset step before anything else. -/
def dutyResetFirst : List PortSample → Bool
  | [] => true
  | x :: _ => x.rst

/-- One command keeps `StartFirst` (R103): an `EDGE` comes after a `START`, and `START` and `CLEAR` do not
come between the first `EDGE` and the `FINISH`. -/
def commandKeepsStartFirst : Instr → DriverPlace → Bool
  | .edge _ _, p => p != .outside
  | .start, p | .clear, p => p != .running
  | .nop, _ | .finish _, _ | .rsvd5, _ | .rsvd6, _ | .rsvd7, _ => true

/-- One sample keeps `StartFirst` (R103): a reset does not come inside a capture either. -/
def sampleKeepsStartFirst (tsw : Nat) (x : PortSample) (p : DriverPlace) : Bool :=
  if x.rst then p != .running else commandKeepsStartFirst (decode tsw x.cmd) p

/-- `StartFirst` (R103), of a driver that stands at `p`. -/
def dutyStartFirst (tsw : Nat) : List PortSample → DriverPlace → Bool
  | [], _ => true
  | x :: xs, p => sampleKeepsStartFirst tsw x p && dutyStartFirst tsw xs (placeAfter tsw x p)

/-- A transition of the physical line: its direction, the true instant in time units, and whether it is
one of the two handshake artifacts. -/
structure Transition where
  dir : Dir
  instant : Nat
  handshake : Bool
  deriving DecidableEq, Repr

/-- The Edge Event a transition is delivered as: the timer's count modulo `2^TSW` (R105). -/
def sampledEvent (c : Config) (x : Transition) : Event :=
  { dir := x.dir, ts := BitVec.ofNat 64 (x.instant % 2 ^ c.tsw) }

/-- `Ordered` (R104, R105): true instants strictly increasing, consecutive intervals below `2^TSW`. -/
def dutyOrdered (c : Config) : List Transition → Bool
  | a :: b :: rest =>
      decide (a.instant < b.instant) && decide (b.instant - a.instant < 2 ^ c.tsw) &&
        dutyOrdered c (b :: rest)
  | _ => true

/-- `Faithful` (R106), of the command words of one capture: exactly one `EDGE` per transition, in order,
the first two transitions being the handshake artifacts and no other one. -/
def dutyFaithful (c : Config) (line : List Transition) (ws : List CmdWord) : Bool :=
  decide (eventsOf c.tsw ws = line.map (sampledEvent c)) &&
    (line.take nSkip).all (·.handshake) && (line.drop nSkip).all (fun x => !x.handshake)

/-- A sample that sets every register to its reset value before anything else: `START`, `CLEAR` or reset
(R12). It destroys a result (R109) and cuts an open capture short without an outcome (R11). -/
def clearsBlock (tsw : Nat) (x : PortSample) : Bool :=
  x.rst || (match decode tsw x.cmd with
    | .start | .clear => true
    | _ => false)

/-- `Bounded` (R107, R112), of a driver that stands at `p`: every capture is ended by `FINISH` within the
sequence. No open capture is cut short by `CLEAR` or reset or replaced by another `START`, and none is open
at the end. A capture is open from its `START` on, also before its first `EDGE` (DESIGN CHOICE, log 14). -/
def dutyBounded (tsw : Nat) : List PortSample → DriverPlace → Bool
  | [], p => p == .outside
  | x :: xs, p => !(p != .outside && clearsBlock tsw x) && dutyBounded tsw xs (placeAfter tsw x p)

/-- The `to` flag of a sample that issues `FINISH`. -/
def finishFlag (tsw : Nat) (x : PortSample) : Option Bool :=
  match x.rst, decode tsw x.cmd with
  | false, .finish timeout => some timeout
  | _, _ => none

/-- `TruthfulTO` (R108): the flags of the `FINISH` commands are, in order, whether the deadline ended the
capture. A `FINISH` that the block ignores has its place in the list too (DESIGN CHOICE, log 16). -/
def dutyTruthfulTO (tsw : Nat) (endedByDeadline : List Bool) (xs : List PortSample) : Bool :=
  decide (xs.filterMap (finishFlag tsw) = endedByDeadline)

/-- `ReadResult` (R109), of samples each marked with whether the driver reads the outputs after that step:
from a `FINISH` on, `START`, `CLEAR` and reset wait until the outputs were read. Every `FINISH` asks for
a read after it, also one outside `Capturing` that the block ignores: the rule says "after the `FINISH`
step" and leaves that case open (DESIGN CHOICE, log 16; unsafe for a claim that takes the duty). -/
def dutyReadResult (tsw : Nat) : List (PortSample × Bool) → Bool → Bool
  | [], _ => true
  | (x, readsAfter) :: rest, unread =>
      !(unread && clearsBlock tsw x) &&
        dutyReadResult tsw rest ((unread || (finishFlag tsw x).isSome) && !readsAfter)

end Sys2Proof.Machine
end

