-- ==== Sys2Proof/Machine/Trace.lean ====
section
/-! DEFINITION. The trace notation of R55, R56 and R57: the text of one line, the commands it stands for,
and what the driver puts on the ports for it. It is notation; it gives no command any behaviour (log 15). -/

namespace Sys2Proof.Machine

/-- One line of a trace. The lines of R55 are commands; those of R56 are pseudo-commands; `RESET` (R57)
is one step with `rst = 1` and no command. -/
inductive TraceLine where
  /-- A command in the notation of R55. -/
  | command (i : Instr)
  /-- `RISE t` (R56). -/
  | rise (t : Ts)
  /-- `FALL t` (R56). -/
  | fall (t : Ts)
  /-- `FINISH` without an operand (R56). -/
  | finishByCount
  /-- `TIMEOUT` (R56). -/
  | timeout
  /-- `IDLE n` (R56). -/
  | idle (n : Nat)
  /-- The directive `RESET` (R57). -/
  | reset
  deriving DecidableEq, Repr

/-- The commands a line expands to (R56); `RESET` is not one (R57). -/
def TraceLine.commands : TraceLine → List Instr
  | .command i => [i]
  | .rise t => [.edge .rising t]
  | .fall t => [.edge .falling t]
  | .finishByCount => [.finish false]
  | .timeout => [.finish true]
  | .idle n => List.replicate n .nop
  | .reset => []

/-- What the driver puts on the ports for a line, one sample per clock edge: the canonical words of its
commands with `rst = 0` (R55), or one step with `rst = 1`, whose `cmd` is irrelevant (R57). -/
def TraceLine.samples (tsw : Nat) : TraceLine → List PortSample
  | .reset => [{ rst := true, cmd := 0 }]
  | l => l.commands.map fun i => commandSample (encode tsw i)

/-- What the driver puts on the ports for a trace. -/
def traceSamples (tsw : Nat) (ls : List TraceLine) : List PortSample :=
  ls.flatMap (TraceLine.samples tsw)

/-! ## Reading a line's text -/

/-- The value of a digit, decimal or hexadecimal. -/
def digitValue (ch : Char) : Nat :=
  let n := ch.toNat
  if 48 ≤ n ∧ n ≤ 57 then n - 48
  else if 65 ≤ n ∧ n ≤ 70 then n - 55
  else if 97 ≤ n ∧ n ≤ 102 then n - 87
  else 16

/-- The number a non-empty string of digits of the base stands for, after the digits already read. -/
def readDigits (base : Nat) : List Char → Nat → Option Nat
  | [], acc => some acc
  | ch :: rest, acc =>
      if digitValue ch < base then readDigits base rest (acc * base + digitValue ch) else none

/-- A number, decimal or `0x` hexadecimal (R8, R55). -/
def readNumber : List Char → Option Nat
  | [] => none
  | '0' :: 'x' :: d :: rest => readDigits 16 (d :: rest) 0
  | ds => readDigits 10 ds 0

/-- A timestamp: a number in 0 to `2^TSW - 1` (R55). -/
def readTs (tsw : Nat) (w : List Char) : Option Ts :=
  match readNumber w with
  | some n => if n < 2 ^ tsw then some (BitVec.ofNat 64 n) else none
  | none => none

/-- The text before a comment (R55): everything up to the first `;`. -/
def beforeComment (l : List Char) : List Char := l.takeWhile (· != ';')

/-- The words of a line, split at spaces; `cur` holds the letters of the word being read, last first. -/
def lineWords : List Char → List Char → List (List Char)
  | [], cur => if cur.isEmpty then [] else [cur.reverse]
  | ch :: rest, cur =>
      if ch = ' ' then (if cur.isEmpty then lineWords rest [] else cur.reverse :: lineWords rest [])
      else lineWords rest (ch :: cur)

/-- A line of one word. -/
def readWord1 (w : List Char) : Option TraceLine :=
  if w = "NOP".toList then some (.command .nop)
  else if w = "START".toList then some (.command .start)
  else if w = "CLEAR".toList then some (.command .clear)
  else if w = "RSVD5".toList then some (.command .rsvd5)
  else if w = "RSVD6".toList then some (.command .rsvd6)
  else if w = "RSVD7".toList then some (.command .rsvd7)
  else if w = "FINISH".toList then some .finishByCount
  else if w = "TIMEOUT".toList then some .timeout
  else if w = "RESET".toList then some .reset
  else none

/-- A line of two words. -/
def readWord2 (tsw : Nat) (w a : List Char) : Option TraceLine :=
  if w = "FINISH".toList then
    if a = "0".toList then some (.command (.finish false))
    else if a = "1".toList then some (.command (.finish true))
    else none
  else if w = "RISE".toList then (readTs tsw a).map .rise
  else if w = "FALL".toList then (readTs tsw a).map .fall
  else if w = "IDLE".toList then (readNumber a).map .idle
  else none

/-- A line of three words: `EDGE R, t` or `EDGE F, t`. -/
def readWord3 (tsw : Nat) (w a b : List Char) : Option TraceLine :=
  if w = "EDGE".toList then
    if a = "R,".toList then (readTs tsw b).map fun t => .command (.edge .rising t)
    else if a = "F,".toList then (readTs tsw b).map fun t => .command (.edge .falling t)
    else none
  else none

/-- The line a text stands for (R55, R56, R57), at a given `TSW`; none if it is not in the notation. -/
def readLine (tsw : Nat) (l : List Char) : Option TraceLine :=
  match lineWords (beforeComment l) [] with
  | [w] => readWord1 w
  | [w, a] => readWord2 tsw w a
  | [w, a, b] => readWord3 tsw w a b
  | _ => none

/-! ## Writing a line's text -/

/-- The text of a command in the notation of R55, its timestamp in decimal. -/
def commandText : Instr → String
  | .nop => "NOP"
  | .start => "START"
  | .edge .rising t => "EDGE R, " ++ toString t.toNat
  | .edge .falling t => "EDGE F, " ++ toString t.toNat
  | .finish false => "FINISH 0"
  | .finish true => "FINISH 1"
  | .clear => "CLEAR"
  | .rsvd5 => "RSVD5"
  | .rsvd6 => "RSVD6"
  | .rsvd7 => "RSVD7"

/-- The text of a line (R55, R56, R57). -/
def lineText : TraceLine → String
  | .command i => commandText i
  | .rise t => "RISE " ++ toString t.toNat
  | .fall t => "FALL " ++ toString t.toNat
  | .finishByCount => "FINISH"
  | .timeout => "TIMEOUT"
  | .idle n => "IDLE " ++ toString n
  | .reset => "RESET"

end Sys2Proof.Machine
end

