-- ==== Sys2Proof/Safety.lean ====
section
/-! DEFINITION. Runs of the block, what a state of a run satisfies (R33), and what an observer at the
ports sees. The terms the statements use. -/

namespace Sys2Proof.Machine

/-! ## Runs -/

/-- `k` clock edges. -/
def runSteps (k : Nat) (s : State) : Host.Outcome State Fault Refusal := Sys2Proof.core.run k s

/-- A state some run from a reset state reaches, whatever the build parameters and whatever the driver
does (R10, R33). -/
inductive Reachable : State → Prop where
  | reset (c : Config) (xs : List PortSample) : c.legal →
      Reachable { State.reset with cfg := c, inputs := xs }
  | step (s t : State) : Reachable s → Sys2Proof.Machine.step s = .next t → Reachable t

/-- The output ports after each of `k` clock edges. -/
def outputsAlong : Nat → State → List Outputs
  | 0, _ => []
  | k + 1, s =>
    match Sys2Proof.Machine.step s with
    | .next t => t.outputs :: outputsAlong k t
    | .fault _ => []
    | .refused _ => []

/-- The bits the strobe ports carry, in order. -/
def strobedBits (os : List Outputs) : List Bool :=
  os.filterMap fun o => if o.bitStb then some o.bitVal else none

/-! ## The invariants of R33 -/

/-- R33 item 1: `PHASE = Idle` implies every other register is 0. -/
abbrev idleIsEmpty (s : State) : Prop := s.phase = .idle → s.clearRegisters = s

/-- R33 item 2. -/
abbrev nothingBeforeVerdict (s : State) : Prop :=
  (s.phase = .idle ∨ s.phase = .capturing) → s.err = .none ∧ s.hum = 0 ∧ s.temp = 0

/-- R33 item 3. -/
abbrev rejectedIffError (s : State) : Prop :=
  (s.phase = .rejected ↔ s.err ≠ .none) ∧
    (s.phase = .rejected → s.hum = 0 ∧ s.temp = 0 ∧ s.bstb = false)

/-- R33 item 4. -/
abbrev validatedIsSound (s : State) : Prop :=
  s.phase = .validated →
    s.err = .none ∧ s.bitcnt.toNat = 40 ∧ s.ovf = false ∧ 82 ≤ s.evcnt.toNat ∧
    (frameByte s.frame 4).toNat =
      ((frameByte s.frame 0).toNat + (frameByte s.frame 1).toNat + (frameByte s.frame 2).toNat +
        (frameByte s.frame 3).toNat) % 256 ∧
    s.hum.toNat = (frameByte s.frame 0).toNat * 256 + (frameByte s.frame 1).toNat ∧
    s.temp.toNat = (frameByte s.frame 2).toNat * 256 + (frameByte s.frame 3).toNat

/-- R33 item 5. -/
abbrev bitCountBounded (s : State) : Prop :=
  s.bitcnt.toNat ≤ 40 ∧ (s.ovf = true → s.bitcnt.toNat = 40)

/-- R33 item 6: `FRAME[39 - BITCNT : 0] = 0` when `BITCNT < 40`. -/
abbrev nothingBelowFill (s : State) : Prop :=
  s.bitcnt.toNat < 40 → s.frame.toNat % 2 ^ (40 - s.bitcnt.toNat) = 0

/-- R33 item 7: `EVCNT < 127` implies `BITCNT + OVF ≤ max(0, EVCNT - 3)`. -/
abbrev bitsFromEvents (s : State) : Prop :=
  s.evcnt.toNat < 127 → s.bitcnt.toNat + s.ovf.toNat ≤ s.evcnt.toNat - 3

/-- R33 item 8. -/
abbrev valueOnlyWithStrobe (s : State) : Prop := s.bstb = false → s.bval = false

/-- The parameters are legal, and `PREV_TS` is a `TSW`-bit number (R6, R13). -/
abbrev registersFit (s : State) : Prop := s.cfg.legal ∧ s.prevTs.toNat < 2 ^ s.cfg.tsw

/-- All of R33, with the widths of R13 that a Lean type does not fix. -/
structure State.Inv (s : State) : Prop where
  idle : idleIsEmpty s
  beforeVerdict : nothingBeforeVerdict s
  rejected : rejectedIffError s
  validated : validatedIsSound s
  bitCount : bitCountBounded s
  belowFill : nothingBelowFill s
  events : bitsFromEvents s
  strobe : valueOnlyWithStrobe s
  fits : registersFit s

/-! ## Commands seen as an observer sees them -/

/-- The command a clock edge executes, if it is no reset step (R58). -/
def State.commandNow (s : State) : Option Instr :=
  if s.sample.rst then none else some (decode s.cfg.tsw s.sample.cmd)

/-- The event the next clock edge delivers decodes a bit (R24): it is an `EDGE`, the block is in
`Capturing`, at least three events went before and it is Falling. -/
def State.decodesNow (s : State) : Bool :=
  match s.commandNow with
  | some (.edge dir _) => s.phase == .capturing && decodesBit s.evcnt dir
  | _ => false

/-- The bit it decodes (R67, R68). -/
def State.bitNow (s : State) : Bool :=
  match s.commandNow with
  | some (.edge _ ts) => classify s.cfg (elapsed s.cfg ts s.prevTs)
  | _ => false

/-- The phase table of R63: `PHASE` after a command, `verdictPhase` standing for its `FINISH` entry of
the `Capturing` row. -/
def phaseTable (verdictPhase : Phase) : Instr → Phase → Phase
  | .start, _ => .capturing
  | .clear, _ => .idle
  | .finish _, .capturing => verdictPhase
  | .finish _, p => p
  | .edge _ _, p => p
  | .nop, p | .rsvd5, p | .rsvd6, p | .rsvd7, p => p

end Sys2Proof.Machine
end

