-- ==== Sys2Proof/Certificates/Slice0/Obligations.lean ====
section
/-! DEFINITION. The statements for the provers, each from the numbered rules of spec/. Every statement is
about every state, whatever the build parameters (R6), unless it says otherwise. -/

open Sys2Proof Sys2Proof.Machine

/-! ## Encoding (30_encoding.md) -/

/-- 30_encoding.md section 4, the table of canonical words at `TSW = 32`: each is the word of its command
and decodes to it, and the test vectors' words with non-zero reserved bits decode as the vectors say. -/
def Obligations.CanonicalWordsDecodeToTheirCommands : Prop :=
  (encode 32 .nop = 0x000000000 ∧ decode 32 0x000000000 = .nop) ∧
  (encode 32 .start = 0x200000000 ∧ decode 32 0x200000000 = .start) ∧
  (encode 32 (.edge .rising 140) = 0x50000008C ∧ decode 32 0x50000008C = .edge .rising 140) ∧
  (encode 32 (.edge .falling 166) = 0x4000000A6 ∧ decode 32 0x4000000A6 = .edge .falling 166) ∧
  (encode 32 (.finish false) = 0x600000000 ∧ decode 32 0x600000000 = .finish false) ∧
  (encode 32 (.finish true) = 0x700000000 ∧ decode 32 0x700000000 = .finish true) ∧
  (encode 32 .clear = 0x800000000 ∧ decode 32 0x800000000 = .clear) ∧
  (encode 32 .rsvd5 = 0xA00000000 ∧ decode 32 0xA00000000 = .rsvd5) ∧
  (encode 32 .rsvd6 = 0xC00000000 ∧ decode 32 0xC00000000 = .rsvd6) ∧
  (encode 32 .rsvd7 = 0xE00000000 ∧ decode 32 0xE00000000 = .rsvd7) ∧
  decode 32 0x7DEADBEEF = .finish true ∧ decode 32 0xFFFFFFFFF = .rsvd7

/-- Decoding gives back every encodable command with every operand, at every legal `TSW`, and its word is
no wider than the port (R46 to R51). -/
def Obligations.DecodeInvertsEncode : Prop :=
  ∀ (tsw : Nat) (i : Instr), 8 ≤ tsw → tsw ≤ 64 → i.wellFormed tsw = true →
    decode tsw (encode tsw i) = i ∧ (encode tsw i).toNat < 2 ^ (tsw + 4)

/-- R51: every word decodes to exactly the command its `OP`, `F` and `TS` slices name, and at `TSW = 32`
the `mask` and `match` of opcode_table.json, every mask the three `OP` bits, tell the commands apart. -/
def Obligations.DecodingIsTotalOnOpField : Prop :=
  (∀ (tsw : Nat) (w : CmdWord), 8 ≤ tsw → tsw ≤ 64 →
    let op : BitVec 3 := w.extractLsb' (tsw + 1) 3
    let f : Bool := w.getLsbD tsw
    let ts : Ts := (w.extractLsb' 0 tsw).setWidth 64
    (op = 0 → decode tsw w = .nop) ∧
    (op = 1 → decode tsw w = .start) ∧
    (op = 2 → decode tsw w = .edge (if f then .rising else .falling) ts) ∧
    (op = 3 → decode tsw w = .finish f) ∧
    (op = 4 → decode tsw w = .clear) ∧
    (op = 5 → decode tsw w = .rsvd5) ∧
    (op = 6 → decode tsw w = .rsvd6) ∧
    (op = 7 → decode tsw w = .rsvd7)) ∧
  (∀ row ∈ opcodeTable, row.mask = 0xE00000000 ∧
    ∀ w : BitVec 36, w &&& row.mask = row.pattern ↔
      (decode 32 (w.setWidth 68)).mnemonic = row.mnemonic)

/-- R53: the reserved `F` and `TS` fields are ignored. A clock edge does the same for a word and for the
canonical word of the same command, whose reserved fields are 0. -/
def Obligations.ReservedFieldsAreIgnored : Prop :=
  ∀ (s : State) (w : CmdWord) (rest : List PortSample), s.cfg.legal →
    let tsw := s.cfg.tsw
    let canonical := encode tsw (decode tsw w)
    step { s with inputs := commandSample w :: rest } =
      step { s with inputs := commandSample canonical :: rest } ∧
    opField tsw canonical = opField tsw w ∧
    (opField tsw w ≠ 2 → wordField canonical 0 tsw = 0) ∧
    (opField tsw w ≠ 2 → opField tsw w ≠ 3 → flagField tsw canonical = false)

/-- 30_encoding.md section 1: for another `TSW` the masks and patterns of opcode_table.json, shifted left
by `TSW - 32` bit positions (right for a smaller `TSW`), tell the commands apart. -/
def Obligations.OtherWidthsShiftTheOpcodeTable : Prop :=
  ∀ (tsw : Nat) (w : CmdWord) (row : OpcodeRow), 8 ≤ tsw → tsw ≤ 64 → row ∈ opcodeTable →
    let shifted := fun x : Nat => if 32 ≤ tsw then x <<< (tsw - 32) else x >>> (32 - tsw)
    (w.toNat &&& shifted row.mask.toNat = shifted row.pattern.toNat ↔
      (decode tsw w).mnemonic = row.mnemonic)

/-- R56: a pseudo-command is only another text for commands, and what the driver puts on the ports for a
line decodes to the commands the line stands for, in order, with `rst = 0`. -/
def Obligations.PseudoCommandsExpandToCommands : Prop :=
  (∀ (tsw : Nat) (t : Ts),
    TraceLine.samples tsw (.rise t) = TraceLine.samples tsw (.command (.edge .rising t)) ∧
    TraceLine.samples tsw (.fall t) = TraceLine.samples tsw (.command (.edge .falling t))) ∧
  (∀ tsw : Nat,
    TraceLine.samples tsw .finishByCount = TraceLine.samples tsw (.command (.finish false)) ∧
    TraceLine.samples tsw .timeout = TraceLine.samples tsw (.command (.finish true))) ∧
  (∀ tsw n : Nat, TraceLine.samples tsw (.idle n) =
    (List.replicate n (TraceLine.samples tsw (.command .nop))).flatten) ∧
  (∀ (tsw : Nat) (l : TraceLine), 8 ≤ tsw → tsw ≤ 64 → l ≠ .reset →
    (∀ i ∈ l.commands, i.wellFormed tsw = true) →
    (l.samples tsw).map (fun x => (x.rst, decode tsw x.cmd)) = l.commands.map (fun i => (false, i)))

/-! ## The step (40_cycle_control.md, 70_reset_and_hazards.md) -/

/-- 40_cycle_control.md section 1: a clock edge with `rst = 0` executes the command `cmd` decodes to, on
the state whose next sample is the one after. An edge at which the driver has placed nothing executes
`NOP` (the model's reading of R27's last sentence, log 5). -/
def Obligations.StepExecutesTheSampledCommand : Prop :=
  (∀ (s : State) (w : CmdWord) (i : Instr) (rest : List PortSample),
    s.inputs = { rst := false, cmd := w } :: rest → decode s.cfg.tsw w = i →
    step s = exec i { s with inputs := rest }) ∧
  (∀ s : State, s.inputs = [] → step s = exec .nop s)

/-- How the host places a command (the model's convention, log 6): from any state of a block with
`TSW = 32`, the next clock edge executes the command that the table word decodes to. -/
def Obligations.FetchWordRunsTheTableCommand : Prop :=
  ∀ (s : State) (w : Nat), s.cfg.tsw = 32 → w < 2 ^ 36 →
    ∃ i, decodeTableWord 36 w = some i ∧
      step (s.withFetchWord 36 w) = exec i { s with inputs := s.inputs.tail }

/-- R99, R31: with `rst = 1` every register becomes 0 whatever `cmd` holds and whatever the state was, so
every port reads 0; with `rst = 0` the command is executed; `CLEAR` gives the same values, and `START`
the same with `PHASE = 1`. -/
def Obligations.ResetStepZeroesEveryRegister : Prop :=
  (∀ (s : State) (w : CmdWord) (rest : List PortSample),
    s.inputs = { rst := true, cmd := w } :: rest →
    step s = .next { State.reset with cfg := s.cfg, inputs := rest }) ∧
  (∀ (s : State) (w : CmdWord) (rest : List PortSample),
    s.inputs = { rst := false, cmd := w } :: rest →
    step s = exec (decode s.cfg.tsw w) { s with inputs := rest }) ∧
  (∀ s : State, exec .clear s = .next { State.reset with cfg := s.cfg, inputs := s.inputs }) ∧
  (∀ s : State, ∃ t, exec .start s = .next t ∧ t.phase.code = 1 ∧
    { t with phase := .idle } = { State.reset with cfg := s.cfg, inputs := s.inputs }) ∧
  (State.reset.prevTs = 0 ∧ State.reset.frame = 0 ∧ State.reset.hum = 0 ∧ State.reset.temp = 0 ∧
    State.reset.phase.code = 0 ∧ State.reset.evcnt = 0 ∧ State.reset.bitcnt = 0 ∧
    State.reset.ovf = false ∧ State.reset.bstb = false ∧ State.reset.bval = false ∧
    State.reset.err.code = 0) ∧
  (∀ (c : Config) (xs : List PortSample),
    State.outputs { State.reset with cfg := c, inputs := xs } =
      { phase := 0, err := 0, done := false, valid := false, humidity := 0, temperature := 0,
        bitStb := false, bitVal := false })

/-- The step is total: it never blocks and never fails, it takes exactly one sample from the driver, and
no step writes the build parameters (40_cycle_control.md section 1, 10_state.md section 5). -/
def Obligations.EveryStepCompletesAndKeepsParameters : Prop :=
  ∀ s : State, ∃ t, step s = .next t ∧ t.cfg = s.cfg ∧ t.inputs = s.inputs.tail

/-- The outputs, and every register, after `n` clock edges depend on the samples of those `n` edges alone,
not on what the driver does later (20_memory.md section 5). -/
def Obligations.LaterInputsDoNotMatter : Prop :=
  ∀ (s : State) (now later later' : List PortSample), ∃ t : State,
    runSteps now.length { s with inputs := now ++ later } = .next { t with inputs := later } ∧
    runSteps now.length { s with inputs := now ++ later' } = .next { t with inputs := later' }

/-- R12: nothing survives `START`, `CLEAR` or reset. Two blocks with the same parameters and the same
driver, whatever else they hold, behave the same from such a step on. -/
def Obligations.CyclesAreIndependent : Prop :=
  ∀ (s s' : State) (x : PortSample) (rest : List PortSample) (k : Nat),
    s.cfg = s'.cfg → s.inputs = x :: rest → s'.inputs = x :: rest →
    (x.rst = true ∨ decode s.cfg.tsw x.cmd = .start ∨ decode s.cfg.tsw x.cmd = .clear) →
    runSteps (k + 1) s = runSteps (k + 1) s'

/-! ## Cycle control (40_cycle_control.md) -/

/-- R59: `NOP`, its reserved bits ignored, clears the strobes and does nothing else, in every phase; and
any number of `NOP` words before a clock edge changes nothing of what that edge gives. -/
def Obligations.NopClearsStrobesAndIsOtherwiseInvisible : Prop :=
  (∀ x < 2 ^ 33, decode 32 (BitVec.ofNat 68 x) = .nop) ∧
  (∀ s : State, exec .nop s = .next { s with bstb := false, bval := false }) ∧
  (∀ (s : State) (nops : List CmdWord) (x : PortSample) (rest : List PortSample),
    (∀ w ∈ nops, decode s.cfg.tsw w = .nop) →
    runSteps (nops.length + 1) { s with inputs := nops.map commandSample ++ x :: rest } =
      step { s with inputs := x :: rest })

/-- R62: each reserved opcode, its other bits ignored, clears the strobes and does nothing else, in every
phase. -/
def Obligations.ReservedOpcodesActAsNop : Prop :=
  (∀ x < 2 ^ 33,
    decode 32 (BitVec.ofNat 68 (0xA00000000 + x)) = .rsvd5 ∧
    decode 32 (BitVec.ofNat 68 (0xC00000000 + x)) = .rsvd6 ∧
    decode 32 (BitVec.ofNat 68 (0xE00000000 + x)) = .rsvd7) ∧
  ∀ s : State,
    exec .rsvd5 s = .next { s with bstb := false, bval := false } ∧
    exec .rsvd6 s = .next { s with bstb := false, bval := false } ∧
    exec .rsvd7 s = .next { s with bstb := false, bval := false }

/-- R60: `START`, its reserved bits ignored, sets every register to 0 and `PHASE` to `Capturing`, in every
phase; a `FINISH` right after it judges a capture of zero events and rejects it. -/
def Obligations.StartOpensAnEmptyCapture : Prop :=
  (∀ x < 2 ^ 33, decode 32 (BitVec.ofNat 68 (0x200000000 + x)) = .start) ∧
  ∀ s : State, ∃ t,
    t = { s with prevTs := 0, frame := 0, hum := 0, temp := 0, evcnt := 0, bitcnt := 0, ovf := false,
                 err := .none, bstb := false, bval := false, phase := .capturing } ∧
    exec .start s = .next t ∧
    ∀ timeout : Bool, ∃ u, exec (.finish timeout) t = .next u ∧ u.phase = .rejected

/-- R61: `CLEAR`, its reserved bits ignored, sets every register to 0, in every phase, which is the reset
state; in `Idle`, in a state that satisfies R33, it changes nothing. -/
def Obligations.ClearReturnsToTheResetState : Prop :=
  (∀ x < 2 ^ 33, decode 32 (BitVec.ofNat 68 (0x800000000 + x)) = .clear) ∧
  (∀ s : State, exec .clear s = .next { State.reset with cfg := s.cfg, inputs := s.inputs }) ∧
  (∀ s : State, s.Inv → s.phase = .idle → exec .clear s = .next s)

/-- R63: the table of `PHASE` after a step. `FINISH` in `Capturing` ends in `Validated` or `Rejected`;
that is the only way in, and `START`, `CLEAR` and reset are the only ways out. -/
def Obligations.PhaseMachineFollowsItsTable : Prop :=
  (∀ s : State, s.sample.rst = true → ∃ t, step s = .next t ∧ t.phase = .idle) ∧
  (∀ (s : State) (i : Instr), ∃ t v, (v = Phase.validated ∨ v = Phase.rejected) ∧
    exec i s = .next t ∧ t.phase = phaseTable v i s.phase) ∧
  (∀ s t : State, step s = .next t → t.done = true → s.done = false →
    s.phase = .capturing ∧ ∃ timeout, s.commandNow = some (.finish timeout)) ∧
  (∀ s t : State, step s = .next t → s.done = true → t.done = false →
    s.commandNow = none ∨ s.commandNow = some .start ∨ s.commandNow = some .clear)

/-! ## EDGE (41_edge_to_bit.md) -/

/-- R71: outside `Capturing`, `EDGE` clears the strobes and does nothing else. -/
def Obligations.EdgeOutsideCapturingActsAsNop : Prop :=
  ∀ (s : State) (dir : Dir) (ts : Ts), s.phase ≠ .capturing →
    exec (.edge dir ts) s = .next { s with bstb := false, bval := false }

/-- R64: `EDGE` in `Capturing`, its whole pseudocode, and its canonical words at `TSW = 32`. The
difference is taken on integers and reduced modulo `2^TSW`. -/
def Obligations.EdgeFollowsItsPseudocode : Prop :=
  (∀ t : Nat, t < 2 ^ 32 →
    decode 32 (BitVec.ofNat 68 (0x500000000 + t)) = .edge .rising (BitVec.ofNat 64 t) ∧
    decode 32 (BitVec.ofNat 68 (0x400000000 + t)) = .edge .falling (BitVec.ofNat 64 t)) ∧
  (∀ (s : State) (dir : Dir) (ts : Ts), s.cfg.legal → ts.toNat < 2 ^ s.cfg.tsw →
    s.phase = .capturing →
    let difference : Int := ((ts.toNat : Int) - s.prevTs.toNat) % (2 ^ s.cfg.tsw : Nat)
    let b : Bool := decide ((s.cfg.threshold : Int) < difference)
    let counted : State :=
      { s with bstb := false, bval := false, prevTs := ts,
               evcnt := if s.evcnt.toNat < 127 then s.evcnt + 1 else 127 }
    exec (.edge dir ts) s = .next
      (if 3 ≤ s.evcnt.toNat ∧ dir = .falling then
        if s.bitcnt.toNat < 40 then
          { counted with bstb := true, bval := b,
                         frame := frameBitWrite s.frame s.bitcnt.toNat b, bitcnt := s.bitcnt + 1 }
        else { counted with bstb := true, bval := b, ovf := true }
      else counted)) ∧
  (∀ (s : State) (dir : Dir) (ts : Ts), s.phase ≠ .capturing →
    exec (.edge dir ts) s = .next { s with bstb := false, bval := false })

/-- The handshake events and the seed (`EVCNT` below 3), and every Rising event, decode no bit whatever
their timestamps: they leave the frame, its count, `OVF` and the strobes without a bit
(41_edge_to_bit.md section 2). -/
def Obligations.HandshakeSeedAndRisingEventsDecodeNothing : Prop :=
  ∀ (s : State) (dir : Dir) (ts : Ts), s.phase = .capturing →
    (s.evcnt.toNat < 3 ∨ dir = .rising) →
    ∃ t, exec (.edge dir ts) s = .next t ∧ t.bstb = false ∧ t.bval = false ∧
      t.frame = s.frame ∧ t.bitcnt = s.bitcnt ∧ t.ovf = s.ovf ∧
      t.prevTs = truncTs s.cfg ts ∧ t.evcnt.toNat = min (s.evcnt.toNat + 1) 127

/-- R67: `elapsed` is the difference modulo `2^TSW`; equal timestamps give 0, a smaller one gives
`2^TSW - (PREV_TS - ts)`, and for a true interval below `2^TSW` it is the true interval, across a wrap of
the timer too. In neither case is there an error: the block computes a bit. -/
def Obligations.ElapsedIsTheModularDifference : Prop :=
  ∀ c : Config, c.legal →
    (∀ ts prev : Ts,
      (elapsed c ts prev : Int) = ((ts.toNat : Int) - prev.toNat) % (2 ^ c.tsw : Nat)) ∧
    (∀ ts : Ts, elapsed c ts ts = 0) ∧
    (∀ ts prev : Ts, prev.toNat < 2 ^ c.tsw → ts.toNat < prev.toNat →
      elapsed c ts prev = 2 ^ c.tsw - (prev.toNat - ts.toNat)) ∧
    (∀ first second : Nat, first < second → second - first < 2 ^ c.tsw →
      elapsed c (BitVec.ofNat 64 (second % 2 ^ c.tsw)) (BitVec.ofNat 64 (first % 2 ^ c.tsw)) =
        second - first) ∧
    (∀ (s : State) (dir : Dir) (ts : Ts), ∃ t, exec (.edge dir ts) s = .next t ∧
      t.phase = s.phase ∧ t.err = s.err ∧
      (s.phase = .capturing → 3 ≤ s.evcnt.toNat → dir = .falling →
        t.bstb = true ∧ t.bval = decide (s.cfg.threshold < elapsed s.cfg ts s.prevTs)))

/-- R68: every Falling event of index 3 or more yields exactly one bit, 1 if and only if the elapsed time
is strictly above `THRESHOLD`. At 35: 34 and 35 give 0, 36 gives 1, 0 gives 0; the largest elapsed time
gives 1 unless `THRESHOLD` is `2^TSW - 1`, for which none does. -/
def Obligations.ThresholdComparisonIsStrict : Prop :=
  (∀ (s : State) (ts : Ts), s.phase = .capturing → 3 ≤ s.evcnt.toNat →
    ∃ t, exec (.edge .falling ts) s = .next t ∧ t.bstb = true ∧
      (t.bval = true ↔ s.cfg.threshold < elapsed s.cfg ts s.prevTs)) ∧
  (∀ (s t : State) (ts : Ts), s.phase = .capturing → 3 ≤ s.evcnt.toNat → s.cfg.threshold = 35 →
    exec (.edge .falling ts) s = .next t →
    (elapsed s.cfg ts s.prevTs = 34 → t.bval = false) ∧
    (elapsed s.cfg ts s.prevTs = 35 → t.bval = false) ∧
    (elapsed s.cfg ts s.prevTs = 36 → t.bval = true) ∧
    (elapsed s.cfg ts s.prevTs = 0 → t.bval = false)) ∧
  (∀ (s t : State) (ts : Ts), s.phase = .capturing → 3 ≤ s.evcnt.toNat → s.cfg.legal →
    exec (.edge .falling ts) s = .next t →
    (s.cfg.threshold ≠ 2 ^ s.cfg.tsw - 1 → elapsed s.cfg ts s.prevTs = 2 ^ s.cfg.tsw - 1 →
      t.bval = true) ∧
    (s.cfg.threshold = 2 ^ s.cfg.tsw - 1 → t.bval = false))

/-- R69: a decoded bit is reported on the strobes; below 40 stored bits it is stored at stream position
`BITCNT` and counted, no other position changing; at 40 it is dropped, `FRAME` and `BITCNT` unchanged, and
`OVF` is set; and a capture with `OVF` set is not validated. -/
def Obligations.AccumulatorStoresThenDrops : Prop :=
  (∀ (s : State) (ts : Ts), s.phase = .capturing → 3 ≤ s.evcnt.toNat →
    ∃ t, exec (.edge .falling ts) s = .next t ∧ t.bstb = true ∧
      t.bval = classify s.cfg (elapsed s.cfg ts s.prevTs) ∧
      (s.bitcnt.toNat < 40 →
        frameBit t.frame s.bitcnt.toNat = t.bval ∧ t.frame.getLsbD (39 - s.bitcnt.toNat) = t.bval ∧
        (∀ k < 40, k ≠ s.bitcnt.toNat → frameBit t.frame k = frameBit s.frame k) ∧
        t.bitcnt.toNat = s.bitcnt.toNat + 1 ∧ t.ovf = s.ovf) ∧
      (s.bitcnt.toNat = 40 → t.frame = s.frame ∧ t.bitcnt = s.bitcnt ∧ t.ovf = true)) ∧
  (∀ (f : Frame) (k : Nat), k < 40 →
    frameBit f k = (frameByte f (k / 8)).getLsbD (7 - k % 8)) ∧
  (∀ (s : State) (timeout : Bool), s.phase = .capturing → s.ovf = true →
    ∃ t, exec (.finish timeout) s = .next t ∧ t.phase = .rejected)

/-- R70: every `EDGE` in `Capturing` takes its timestamp into `PREV_TS` and counts, saturating at 127;
`EVCNT >= 3` stays true; and `EVCNT = 127` is processed like any `EVCNT` from 3 to 126. -/
def Obligations.EdgeAlwaysTakesTimestampAndCounts : Prop :=
  (∀ (s : State) (dir : Dir) (ts : Ts), s.phase = .capturing → ts.toNat < 2 ^ s.cfg.tsw →
    ∃ t, exec (.edge dir ts) s = .next t ∧ t.prevTs = ts ∧
      t.evcnt.toNat = (if s.evcnt.toNat < 127 then s.evcnt.toNat + 1 else 127) ∧
      (3 ≤ s.evcnt.toNat → 3 ≤ t.evcnt.toNat)) ∧
  (∀ (s : State) (dir : Dir) (ts : Ts) (n : BitVec 7), s.phase = .capturing →
    3 ≤ n.toNat → n.toNat ≤ 126 →
    ∃ t u, exec (.edge dir ts) { s with evcnt := 127 } = .next t ∧
      exec (.edge dir ts) { s with evcnt := n } = .next u ∧
      { t with evcnt := 0 } = { u with evcnt := 0 })

/-- The frame of `EDGE`, in every phase: `HUM`, `TEMP`, `PHASE`, `ERR`, the parameters and the ports stay,
`OVF` is never cleared, and every stream position of the frame array reads as before but the one the bit
is stored at, `BITCNT`, in the one case that a bit is stored. -/
def Obligations.EdgeLeavesTheRestAlone : Prop :=
  ∀ (s : State) (dir : Dir) (ts : Ts), ∃ t, exec (.edge dir ts) s = .next t ∧
    t.hum = s.hum ∧ t.temp = s.temp ∧ t.phase = s.phase ∧ t.err = s.err ∧ t.cfg = s.cfg ∧
    t.inputs = s.inputs ∧ (s.ovf = true → t.ovf = true) ∧
    (∀ k < 40, ¬ (s.phase = .capturing ∧ 3 ≤ s.evcnt.toNat ∧ dir = .falling ∧
        s.bitcnt.toNat < 40 ∧ k = s.bitcnt.toNat) →
      frameBit t.frame k = frameBit s.frame k) ∧
    (∀ j < 5, ¬ (s.phase = .capturing ∧ 3 ≤ s.evcnt.toNat ∧ dir = .falling ∧
        s.bitcnt.toNat < 40 ∧ j = s.bitcnt.toNat / 8) →
      frameByte t.frame j = frameByte s.frame j)

/-- R36: in a state that satisfies R33, the position a bit is stored at still holds the 0 of the last
clear, and the write changes that bit of `FRAME` and no other. -/
def Obligations.FrameBitsAreWrittenOnceInOrder : Prop :=
  (∀ (f : Frame) (k : Nat) (b : Bool), k < 40 →
    (frameBitWrite f k b).getLsbD (39 - k) = b ∧
    ∀ i < 40, i ≠ 39 - k → (frameBitWrite f k b).getLsbD i = f.getLsbD i) ∧
  (∀ s : State, s.Inv → ∀ k < 40, s.bitcnt.toNat ≤ k → frameBit s.frame k = false) ∧
  (∀ s t : State, s.Inv → step s = .next t → t.frame ≠ s.frame → t.frame ≠ 0 →
    s.decodesNow = true ∧ s.bitcnt.toNat < 40 ∧
    t.frame = frameBitWrite s.frame s.bitcnt.toNat true ∧
    t.bitcnt.toNat = s.bitcnt.toNat + 1)

/-- R35: the bytes of a frame that holds 40 bits in stream order are the source's: nibbles of four bits
with the first bit the heaviest, paired high nibble first. -/
def Obligations.FrameBytesAreThePackedBits : Prop :=
  ∀ (f : Frame) (bits : List Bool), bits.length = 40 →
    (∀ k < 40, frameBit f k = bits.getD k false) →
    packedBytes bits = (List.range 5).map (fun j => (frameByte f j).toNat) ∧
    ∀ j < 5, (frameByte f j).toNat =
      ((List.range 8).map (fun i => (bits.getD (8 * j + i) false).toNat * 2 ^ (7 - i))).sum

/-- R37: `MemRead(addr, n)` is the big-endian number of its `n` bytes; after `MemWrite(addr, n, v)` it is
`v`, and every byte outside those `n` is as it was. -/
def Obligations.MemReadIsBigEndian : Prop :=
  ∀ (f : Frame) (addr n : Nat), addr ≤ 4 → 1 ≤ n → n ≤ 5 - addr →
    (memRead f addr n).toNat =
      ((List.range n).map (fun i => (frameByte f (addr + i)).toNat * 256 ^ (n - 1 - i))).sum ∧
    (memRead f addr n).toNat = f.toNat / 2 ^ (40 - 8 * (addr + n)) % 2 ^ (8 * n) ∧
    (∀ v : BitVec (8 * n), memRead (memWrite f addr n v) addr n = v ∧
      ∀ j < 5, (j < addr ∨ addr + n ≤ j) → frameByte (memWrite f addr n v) j = frameByte f j)

/-- R72: after `START` and the commands of a Capture Window, with `NOP`s and reserved opcodes interleaved
freely, the strobes carried exactly the rule's bit sequence `S`, the frame holds its first 40 bits and
zeros, the complete bytes are the source's, and the counters and flags are as the window says; and how
long `S` is for alternating directions. -/
def Obligations.StreamingAgreesWithTheBatchDecoder : Prop :=
  (∀ (s : State) (start : CmdWord) (ws : List CmdWord) (rest : List PortSample),
    decode s.cfg.tsw start = .start →
    (∀ w ∈ ws, insideWindow (decode s.cfg.tsw w) = true) →
    s.inputs = commandSample start :: (ws.map commandSample ++ rest) →
    let window := eventsOf s.cfg.tsw ws
    let S := indexedBits s.cfg window
    strobedBits (outputsAlong (ws.length + 1) s) = S ∧
    ∃ t, runSteps (ws.length + 1) s = .next t ∧
      t.phase = .capturing ∧
      t.bitcnt.toNat = min S.length 40 ∧
      (t.ovf = true ↔ 40 < S.length) ∧
      (∀ k < 40, frameBit t.frame k = S.getD k false) ∧
      t.evcnt.toNat = min window.length 127 ∧
      (∀ e ∈ window.getLast?, t.prevTs = e.ts) ∧
      (∀ j < min S.length 40 / 8, (packedBytes S)[j]? = some (frameByte t.frame j).toNat) ∧
      t.hum = 0 ∧ t.temp = 0 ∧ t.err = .none ∧ t.cfg = s.cfg ∧ t.inputs = rest) ∧
  (∀ (c : Config) (window : List Event), indexedBits c window = batchBits c window) ∧
  (∀ (c : Config) (window : List Event), alternates window = true → ∀ e ∈ window[2]?,
    (e.dir = .rising → (indexedBits c window).length = (window.length - 2) / 2) ∧
    (e.dir = .falling → (indexedBits c window).length = (window.length - 3) / 2))

/-! ## FINISH (42_frame_validator.md, 60_exceptions.md) -/

/-- R74: `FINISH` in `Capturing`, its `TS` field ignored: its whole pseudocode, its checks in their
order. -/
def Obligations.FinishFollowsItsPseudocode : Prop :=
  (∀ x < 2 ^ 32,
    decode 32 (BitVec.ofNat 68 (0x600000000 + x)) = .finish false ∧
    decode 32 (BitVec.ofNat 68 (0x700000000 + x)) = .finish true) ∧
  (∀ (s : State) (timeout : Bool), s.phase = .capturing →
    let rejected : ErrKind → State := fun code =>
      { s with bstb := false, bval := false, phase := .rejected, err := code, hum := 0, temp := 0 }
    let byte : Nat → Nat := fun j => (frameByte s.frame j).toNat
    exec (.finish timeout) s = .next
      (if timeout = true ∧ s.evcnt.toNat < 82 then rejected .captureTimeout
       else if s.evcnt.toNat < 82 ∨ s.bitcnt.toNat ≠ 40 ∨ s.ovf = true then
         rejected .frameLengthError
       else if byte 4 ≠ (byte 0 + byte 1 + byte 2 + byte 3) % 256 then rejected .checksumError
       else
         { s with bstb := false, bval := false, phase := .validated, err := .none,
                  hum := BitVec.ofNat 16 (byte 0 * 256 + byte 1),
                  temp := BitVec.ofNat 16 (byte 2 * 256 + byte 3) })) ∧
  (∀ (s : State) (timeout : Bool), s.phase ≠ .capturing →
    exec (.finish timeout) s = .next { s with bstb := false, bval := false })

/-- R80: outside `Capturing`, `FINISH` clears the strobes and does nothing else; so a second `FINISH`
after the first changes nothing, whatever its flag. -/
def Obligations.FinishOutsideCapturingActsAsNop : Prop :=
  (∀ (s : State) (timeout : Bool), s.phase ≠ .capturing →
    exec (.finish timeout) s = .next { s with bstb := false, bval := false }) ∧
  (∀ (s t : State) (first second : Bool), exec (.finish first) s = .next t →
    exec (.finish second) t = .next t)

/-- R85: `CaptureTimeout` is raised exactly when the flag is 1 and fewer than 82 events came, whatever
else the capture holds. -/
def Obligations.CaptureTimeoutIsRaisedExactly : Prop :=
  ∀ (s : State) (timeout : Bool), s.phase = .capturing →
    ∃ t, exec (.finish timeout) s = .next t ∧ ErrKind.captureTimeout.code = 1 ∧
      (t.err = .captureTimeout ↔ timeout = true ∧ s.evcnt.toNat < 82) ∧
      (timeout = true → 82 ≤ s.evcnt.toNat → exec (.finish false) s = .next t)

/-- R86: `FrameLengthError` is raised exactly when the timeout does not apply and fewer than 82 events
came, or not 40 bits, or a bit was dropped. -/
def Obligations.FrameLengthErrorIsRaisedExactly : Prop :=
  ∀ (s : State) (timeout : Bool), s.phase = .capturing →
    ∃ t, exec (.finish timeout) s = .next t ∧ ErrKind.frameLengthError.code = 2 ∧
      (t.err = .frameLengthError ↔
        ¬ (timeout = true ∧ s.evcnt.toNat < 82) ∧
        (s.evcnt.toNat < 82 ∨ s.bitcnt.toNat ≠ 40 ∨ s.ovf = true))

/-- R87: `ChecksumError` is raised exactly when neither earlier error applies and the fifth byte is not
the sum of the first four modulo 256. -/
def Obligations.ChecksumErrorIsRaisedExactly : Prop :=
  ∀ (s : State) (timeout : Bool), s.phase = .capturing →
    ∃ t, exec (.finish timeout) s = .next t ∧ ErrKind.checksumError.code = 3 ∧
      (t.err = .checksumError ↔
        82 ≤ s.evcnt.toNat ∧ s.bitcnt.toNat = 40 ∧ s.ovf = false ∧
        (frameByte s.frame 4).toNat ≠
          ((frameByte s.frame 0).toNat + (frameByte s.frame 1).toNat +
            (frameByte s.frame 2).toNat + (frameByte s.frame 3).toNat) % 256)

/-- R78: on success `HUM` and `TEMP` are `high × 256 + low` of the frame's two fields, unsigned and
unchecked: every value of 0 to 65535 passes through. -/
def Obligations.ValidatedReadingIsHighTimes256PlusLow : Prop :=
  (∀ (s t : State) (timeout : Bool), s.phase = .capturing → exec (.finish timeout) s = .next t →
    t.phase = .validated →
    t.hum.toNat = (frameByte s.frame 0).toNat * 256 + (frameByte s.frame 1).toNat ∧
    t.temp.toNat = (frameByte s.frame 2).toNat * 256 + (frameByte s.frame 3).toNat ∧
    t.hum = frameByte s.frame 0 ++ frameByte s.frame 1 ∧
    t.temp = frameByte s.frame 2 ++ frameByte s.frame 3) ∧
  (∀ h v : BitVec 16, ∃ s t, s.Inv ∧ s.phase = .capturing ∧ exec (.finish false) s = .next t ∧
    t.phase = .validated ∧ t.hum = h ∧ t.temp = v)

/-- R81: `FINISH`, in every phase, leaves `FRAME`, `PREV_TS`, `EVCNT`, `BITCNT` and `OVF` as they were,
every byte of the frame array with them, and the next `START` or `CLEAR` clears them. -/
def Obligations.FinishLeavesTheCaptureAlone : Prop :=
  (∀ (s : State) (timeout : Bool), ∃ t, exec (.finish timeout) s = .next t ∧
    t.frame = s.frame ∧ t.prevTs = s.prevTs ∧ t.evcnt = s.evcnt ∧ t.bitcnt = s.bitcnt ∧
    t.ovf = s.ovf ∧ t.cfg = s.cfg ∧ t.inputs = s.inputs ∧
    (∀ j < 5, frameByte t.frame j = frameByte s.frame j)) ∧
  (∀ (s t : State), exec .start s = .next t ∨ exec .clear s = .next t →
    t.frame = 0 ∧ t.prevTs = 0 ∧ t.evcnt = 0 ∧ t.bitcnt = 0 ∧ t.ovf = false)

/-- R88: a rejection sets `PHASE`, `ERR` to a code of 1 to 3, `HUM` and `TEMP` to 0, keeps every other
register (the strobes are 0, as after every `FINISH`), and shows as `done = 1`, `valid = 0` and the code.
-/
def Obligations.RejectionWritesOnlyTheVerdict : Prop :=
  ∀ (s t : State) (timeout : Bool), s.phase = .capturing → exec (.finish timeout) s = .next t →
    t.phase = .rejected →
    ∃ code : ErrKind, code ≠ .none ∧
      t = { s with bstb := false, bval := false, phase := .rejected, err := code,
                   hum := 0, temp := 0 } ∧
      t.outputs.done = true ∧ t.outputs.valid = false ∧ t.outputs.err = code.code ∧
      t.outputs.err ≠ 0

/-- R83: (a) a frame whose fifth byte is the sum of the first four modulo 256 is validated with the two
fields; (b) a passing frame with exactly one byte changed gives `ChecksumError`; (c) changes of two bytes
can cancel and pass. -/
def Obligations.ChecksumCatchesEverySingleByteError : Prop :=
  (∀ (s : State) (timeout : Bool) (h1 h0 t1 t0 : Byte), s.phase = .capturing →
    82 ≤ s.evcnt.toNat → s.bitcnt.toNat = 40 → s.ovf = false →
    s.frame = h1 ++ h0 ++ t1 ++ t0 ++
      BitVec.ofNat 8 ((h1.toNat + h0.toNat + t1.toNat + t0.toNat) % 256) →
    ∃ t, exec (.finish timeout) s = .next t ∧ t.phase = .validated ∧
      t.hum.toNat = h1.toNat * 256 + h0.toNat ∧ t.temp.toNat = t1.toNat * 256 + t0.toNat) ∧
  (∀ (s t : State) (timeout : Bool) (f : Frame) (j : Nat), s.phase = .capturing →
    exec (.finish timeout) s = .next t → t.phase = .validated →
    j < 5 → frameByte f j ≠ frameByte s.frame j →
    (∀ k < 5, k ≠ j → frameByte f k = frameByte s.frame k) →
    ∃ u, exec (.finish timeout) { s with frame := f } = .next u ∧ u.phase = .rejected ∧
      u.err = .checksumError) ∧
  (∃ (s t u : State) (f : Frame), s.phase = .capturing ∧ exec (.finish false) s = .next t ∧
    t.phase = .validated ∧ exec (.finish false) { s with frame := f } = .next u ∧
    u.phase = .validated ∧ frameByte f 1 ≠ frameByte s.frame 1 ∧
    frameByte f 3 ≠ frameByte s.frame 3)

/-- A wrong timeout flag changes only which of `CaptureTimeout` and `FrameLengthError` a short capture
reports; a capture of at least 82 events is judged identically for both flags (70_reset_and_hazards.md
section 3). -/
def Obligations.TimeoutFlagOnlyNamesTheRejection : Prop :=
  ∀ s : State, s.phase = .capturing → ∃ t u,
    exec (.finish true) s = .next t ∧ exec (.finish false) s = .next u ∧
    (82 ≤ s.evcnt.toNat → t = u) ∧
    (t.phase = .validated ↔ u.phase = .validated) ∧
    (t ≠ u → s.evcnt.toNat < 82 ∧ t.err = .captureTimeout ∧ u.err = .frameLengthError ∧
      u = { t with err := .frameLengthError })

/-- The outcome of a whole measurement cycle, from the source's batch decoder alone: `START`, a Capture
Window with `NOP`s and reserved opcodes interleaved, `FINISH`. The verdict and the Reading are those of
the window's bit sequence and its packed bytes. -/
def Obligations.CycleOutcomeFollowsFromTheWindow : Prop :=
  ∀ (s : State) (start finish : CmdWord) (ws : List CmdWord) (rest : List PortSample)
      (timeout : Bool),
    decode s.cfg.tsw start = .start → decode s.cfg.tsw finish = .finish timeout →
    (∀ w ∈ ws, insideWindow (decode s.cfg.tsw w) = true) →
    s.inputs = commandSample start :: (ws.map commandSample ++ commandSample finish :: rest) →
    let window := eventsOf s.cfg.tsw ws
    let S := batchBits s.cfg window
    let byte : Nat → Nat := fun j => (packedBytes S).getD j 0
    ∃ t, runSteps (ws.length + 2) s = .next t ∧
      (window.length < 82 ∧ timeout = true →
        t.phase = .rejected ∧ t.err = .captureTimeout ∧ t.hum = 0 ∧ t.temp = 0) ∧
      (¬ (window.length < 82 ∧ timeout = true) → (window.length < 82 ∨ S.length ≠ 40) →
        t.phase = .rejected ∧ t.err = .frameLengthError ∧ t.hum = 0 ∧ t.temp = 0) ∧
      (82 ≤ window.length → S.length = 40 →
        byte 4 ≠ (byte 0 + byte 1 + byte 2 + byte 3) % 256 →
        t.phase = .rejected ∧ t.err = .checksumError ∧ t.hum = 0 ∧ t.temp = 0) ∧
      (82 ≤ window.length → S.length = 40 →
        byte 4 = (byte 0 + byte 1 + byte 2 + byte 3) % 256 →
        t.phase = .validated ∧ t.err = .none ∧ t.hum.toNat = byte 0 * 256 + byte 1 ∧
        t.temp.toNat = byte 2 * 256 + byte 3)

/-! ## The whole machine (10_state.md, 60_exceptions.md) -/

/-- The invariants of R33, with the widths of R13, hold in every state a reset step leaves. -/
def Obligations.ResetStateSatisfiesTheInvariants : Prop :=
  ∀ (c : Config) (xs : List PortSample), c.legal →
    State.Inv { State.reset with cfg := c, inputs := xs }

/-- Every step keeps the invariants of R33, from every state that has them. -/
def Obligations.EveryStepKeepsTheInvariants : Prop :=
  ∀ s t : State, s.Inv → step s = .next t → t.Inv

/-- R33: in every state reachable from a reset state the eight items hold. -/
def Obligations.ReachableStatesSatisfyTheInvariants : Prop :=
  ∀ s : State, Reachable s →
    (s.phase = .idle → s = { State.reset with cfg := s.cfg, inputs := s.inputs }) ∧
    (s.phase = .idle ∨ s.phase = .capturing → s.err = .none ∧ s.hum = 0 ∧ s.temp = 0) ∧
    ((s.phase = .rejected ↔ s.err ≠ .none) ∧
      (s.phase = .rejected → s.hum = 0 ∧ s.temp = 0 ∧ s.bstb = false)) ∧
    (s.phase = .validated →
      s.err = .none ∧ s.bitcnt.toNat = 40 ∧ s.ovf = false ∧ 82 ≤ s.evcnt.toNat ∧
      (frameByte s.frame 4).toNat =
        ((frameByte s.frame 0).toNat + (frameByte s.frame 1).toNat +
          (frameByte s.frame 2).toNat + (frameByte s.frame 3).toNat) % 256 ∧
      s.hum.toNat = (frameByte s.frame 0).toNat * 256 + (frameByte s.frame 1).toNat ∧
      s.temp.toNat = (frameByte s.frame 2).toNat * 256 + (frameByte s.frame 3).toNat) ∧
    (s.bitcnt.toNat ≤ 40 ∧ (s.ovf = true → s.bitcnt.toNat = 40)) ∧
    (s.bitcnt.toNat < 40 → ∀ i ≤ 39 - s.bitcnt.toNat, s.frame.getLsbD i = false) ∧
    (s.evcnt.toNat < 127 → s.bitcnt.toNat + s.ovf.toNat ≤ max 0 (s.evcnt.toNat - 3)) ∧
    (s.bstb = false → s.bval = false)

/-- R24: after a step `BSTB` is 1 exactly when that step was an `EDGE` that decoded a bit, and then `BVAL`
is that bit; after every other step both are 0; they are on the ports; and no command reads either. -/
def Obligations.StrobesReportExactlyTheDecodedBits : Prop :=
  (∀ s t : State, step s = .next t →
    (t.bstb = true ↔ s.decodesNow = true) ∧
    (s.decodesNow = true → t.bval = s.bitNow) ∧
    (s.decodesNow = false → t.bval = false) ∧
    t.outputs.bitStb = t.bstb ∧ t.outputs.bitVal = t.bval) ∧
  (∀ (s : State) (i : Instr) (x y : Bool), exec i { s with bstb := x, bval := y } = exec i s)

/-- R23: `OVF` is set exactly by an `EDGE` that decodes a bit while 40 are stored, which leaves `FRAME` as
it was; it is cleared only by `START`, `CLEAR` and reset; and a frame with `OVF = 1` fails the length
check; it is on no port. -/
def Obligations.OverflowIsStickyWithinACycle : Prop :=
  (∀ s t : State, s.Inv → step s = .next t → s.ovf = false →
    (t.ovf = true ↔ s.decodesNow = true ∧ s.bitcnt.toNat = 40) ∧
    (t.ovf = true → t.frame = s.frame)) ∧
  (∀ s t : State, step s = .next t → s.ovf = true → t.ovf = false →
    s.commandNow = none ∨ s.commandNow = some .start ∨ s.commandNow = some .clear) ∧
  (∀ (s : State) (timeout : Bool), s.phase = .capturing → s.ovf = true →
    s.rightLength = false ∧ ∃ t, exec (.finish timeout) s = .next t ∧ t.phase = .rejected ∧
      (82 ≤ s.evcnt.toNat → t.err = .frameLengthError)) ∧
  (∀ (s : State) (o : Bool), State.outputs { s with ovf := o } = s.outputs)

/-- Only `FINISH` executed in `Capturing` can raise an error: a step that ends with an error kind the
state did not have was one (60_exceptions.md section 1). -/
def Obligations.OnlyFinishInCapturingRaisesAnError : Prop :=
  ∀ s t : State, step s = .next t → t.err ≠ .none → t.err ≠ s.err →
    s.phase = .capturing ∧ ∃ timeout, s.commandNow = some (.finish timeout)

/-- R92: a finished cycle stays as it is under every command but `START`, `CLEAR` and reset, each of which
clears `ERR`, `HUM`, `TEMP` and everything else; so a second error cannot overwrite the first. -/
def Obligations.VerdictStandsUntilCleared : Prop :=
  (∀ s t : State, s.done = true → step s = .next t → s.commandNow ≠ none →
    s.commandNow ≠ some .start → s.commandNow ≠ some .clear →
    t = { s with bstb := false, bval := false, inputs := s.inputs.tail }) ∧
  (∀ s t : State, s.done = true → step s = .next t →
    (s.commandNow = none ∨ s.commandNow = some .clear →
      t = { State.reset with cfg := s.cfg, inputs := s.inputs.tail }) ∧
    (s.commandNow = some .start →
      t = { State.reset with cfg := s.cfg, inputs := s.inputs.tail, phase := .capturing }))

/-- R28: the output ports as functions of the registers, in every state that satisfies R33; `FRAME`,
`PREV_TS`, `EVCNT`, `BITCNT` and `OVF` drive none. -/
def Obligations.OutputPortsFollowTheRegisters : Prop :=
  (∀ s : State, s.Inv →
    s.outputs.phase = s.phase.code ∧ s.outputs.err = s.err.code ∧
    (s.outputs.done = true ↔ s.phase = .validated ∨ s.phase = .rejected) ∧
    (s.outputs.valid = true ↔ s.phase = .validated) ∧
    s.outputs.humidity = s.hum ∧ s.outputs.temperature = s.temp ∧
    (s.outputs.valid = false → s.outputs.humidity = 0 ∧ s.outputs.temperature = 0) ∧
    s.outputs.bitStb = s.bstb ∧ s.outputs.bitVal = s.bval) ∧
  (Phase.idle.code = 0 ∧ Phase.capturing.code = 1 ∧ Phase.validated.code = 2 ∧
    Phase.rejected.code = 3) ∧
  (ErrKind.none.code = 0 ∧ ErrKind.captureTimeout.code = 1 ∧ ErrKind.frameLengthError.code = 2 ∧
    ErrKind.checksumError.code = 3) ∧
  (∀ (s : State) (f : Frame) (p : Ts) (e : BitVec 7) (n : BitVec 6) (o : Bool),
    State.outputs { s with frame := f, prevTs := p, evcnt := e, bitcnt := n, ovf := o } = s.outputs)

/-- R79, in every state that satisfies R33: `HUM` and `TEMP` are non-zero only in `Validated`; a rejected
cycle leaves both 0 and `valid = 0` whatever `FRAME` holds; and a validated Reading may itself be 0. -/
def Obligations.NothingPartialIsSurfaced : Prop :=
  (∀ s : State, s.Inv → (s.hum ≠ 0 ∨ s.temp ≠ 0) → s.phase = .validated) ∧
  (∀ s : State, s.Inv → s.phase = .rejected →
    s.hum = 0 ∧ s.temp = 0 ∧ s.outputs.valid = false ∧ s.outputs.humidity = 0 ∧
    s.outputs.temperature = 0) ∧
  (∀ (s : State) (f : Frame), State.outputs { s with frame := f } = s.outputs) ∧
  (∃ s t : State, s.Inv ∧ step s = .next t ∧ t.outputs.valid = true ∧ t.outputs.humidity = 0 ∧
    t.outputs.temperature = 0)

/-! ## The driver (70_reset_and_hazards.md) -/

/-- The block waits in `Capturing` for ever if no `FINISH`, `CLEAR` or reset comes, through every command
that is none of them (70_reset_and_hazards.md section 3). -/
def Obligations.CaptureWaitsForItsEnd : Prop :=
  ∀ (s : State) (k : Nat), s.phase = .capturing →
    (∀ x ∈ s.inputs, x.rst = false ∧ decode s.cfg.tsw x.cmd ≠ .clear ∧
      ∀ timeout, decode s.cfg.tsw x.cmd ≠ .finish timeout) →
    ∃ t, runSteps k s = .next t ∧ t.phase = .capturing

/-- Under the duty `Bounded` (the model's predicate, log 14) every cycle ends: the block stays in `Capturing`
from the `START` until a `FINISH` among the driver's samples, and the step of that `FINISH` leaves `done = 1`
and either `valid = 1` or `valid = 0` with a non-zero `err` (70_reset_and_hazards.md sections 3 and 4). -/
def Obligations.BoundedCapturesEndInAVerdict : Prop :=
  ∀ (s : State) (before after : List PortSample) (w : CmdWord),
    s.inputs = before ++ commandSample w :: after → decode s.cfg.tsw w = .start →
    dutyBounded s.cfg.tsw s.inputs .outside = true →
    ∃ (k : Nat) (t : State) (timeout : Bool), k < after.length ∧
      (∀ j ≤ k, ∃ u, runSteps (before.length + 1 + j) s = .next u ∧ u.phase = .capturing ∧
        (j = k → u.commandNow = some (.finish timeout))) ∧
      runSteps (before.length + 1 + (k + 1)) s = .next t ∧ t.outputs.done = true ∧
      (t.outputs.valid = true ∨ t.outputs.valid = false ∧ t.outputs.err ≠ 0)

/-- Under the duties `ResetFirst` and `StartFirst` no `EDGE` is lost: the block is in `Capturing` whenever
the driver issues one (70_reset_and_hazards.md section 3). -/
def Obligations.StartFirstLosesNoEvent : Prop :=
  ∀ (s : State) (before after : List PortSample) (w : CmdWord) (dir : Dir) (ts : Ts),
    s.inputs = before ++ commandSample w :: after → before ≠ [] →
    decode s.cfg.tsw w = .edge dir ts →
    dutyResetFirst s.inputs = true → dutyStartFirst s.cfg.tsw s.inputs .outside = true →
    ∃ t, runSteps before.length s = .next t ∧ t.phase = .capturing

/-- Under the duty `Ordered` the bits of a window are those of the true intervals, also when the timer's
count wraps (70_reset_and_hazards.md section 3). -/
def Obligations.OrderedTimestampsGiveTheTrueBits : Prop :=
  ∀ (c : Config) (line : List Transition), c.legal → dutyOrdered c line = true →
    batchBits c (line.map (sampledEvent c)) =
      (adjacentPairs (line.drop 2)).filterMap (fun p => if p.2.dir = .falling then
        some (decide (c.threshold < p.2.instant - p.1.instant)) else none)
end

