-- ==== Sys2Proof/Laws/Decode.lean ====
section
/-! SUPPORT. The fields of a packed word, and the bounds of a decoded one (R46, R50). -/

namespace Sys2Proof

theorem wordField_lt (w : CmdWord) (lo len : Nat) : wordField w lo len < 2 ^ len :=
  Nat.mod_lt _ (Nat.two_pow_pos len)

/-- A packed word as a number, when its fields fit and `TSW` is legal. -/
theorem packWord_toNat {tsw op ts : Nat} (f : Bool) (hw : tsw ≤ 64) (hop : op < 8)
    (hts : ts < 2 ^ tsw) :
    (packWord tsw op f ts).toNat = op * 2 ^ (tsw + 1) + f.toNat * 2 ^ tsw + ts ∧
      op * 2 ^ (tsw + 1) + f.toNat * 2 ^ tsw + ts < 2 ^ (tsw + 4) := by
  have hf : f.toNat ≤ 1 := Bool.toNat_le f
  have h1 : f.toNat * 2 ^ tsw ≤ 2 ^ tsw := by nlinarith [Nat.two_pow_pos tsw]
  have h2 : op * 2 ^ (tsw + 1) ≤ 7 * 2 ^ (tsw + 1) := Nat.mul_le_mul_right _ (by omega)
  have e1 : (2 : Nat) ^ (tsw + 1) = 2 * 2 ^ tsw := by ring
  have e4 : (2 : Nat) ^ (tsw + 4) = 16 * 2 ^ tsw := by ring
  have hlt : op * 2 ^ (tsw + 1) + f.toNat * 2 ^ tsw + ts < 2 ^ (tsw + 4) := by omega
  have hle : (2 : Nat) ^ (tsw + 4) ≤ 2 ^ 68 := Nat.pow_le_pow_right (by norm_num) (by omega)
  exact ⟨by simpa [packWord] using Nat.mod_eq_of_lt (lt_of_lt_of_le hlt hle), hlt⟩

/-- The three fields of a packed word are the three it was packed from. -/
theorem fields_packWord {tsw op ts : Nat} (f : Bool) (hw : tsw ≤ 64) (hop : op < 8)
    (hts : ts < 2 ^ tsw) :
    opField tsw (packWord tsw op f ts) = op ∧ flagField tsw (packWord tsw op f ts) = f ∧
      wordField (packWord tsw op f ts) 0 tsw = ts := by
  have e1 : (2 : Nat) ^ (tsw + 1) = 2 ^ tsw * 2 := by ring
  have hq : (op * 2 ^ (tsw + 1) + f.toNat * 2 ^ tsw + ts) / 2 ^ tsw = 2 * op + f.toNat := by
    rw [e1, show op * (2 ^ tsw * 2) + f.toNat * 2 ^ tsw + ts =
      ts + 2 ^ tsw * (2 * op + f.toNat) by ring, Nat.add_mul_div_left _ _ (Nat.two_pow_pos tsw),
      Nat.div_eq_of_lt hts, zero_add]
  have hr : (op * 2 ^ (tsw + 1) + f.toNat * 2 ^ tsw + ts) % 2 ^ tsw = ts := by
    rw [e1, show op * (2 ^ tsw * 2) + f.toNat * 2 ^ tsw + ts =
      ts + 2 ^ tsw * (2 * op + f.toNat) by ring, Nat.add_mul_mod_self_left, Nat.mod_eq_of_lt hts]
  have hf : f.toNat ≤ 1 := Bool.toNat_le f
  refine ⟨?_, ?_, ?_⟩
  · rw [opField, wordField, (packWord_toNat f hw hop hts).1, Nat.pow_succ, ← Nat.div_div_eq_div_mul,
      ← Nat.pow_succ, hq]
    omega
  · rw [flagField, wordField, (packWord_toNat f hw hop hts).1, hq]
    cases f <;> simp
  · rw [wordField, (packWord_toNat f hw hop hts).1, pow_zero, Nat.div_one, hr]

/-- A decoded timestamp is a `TSW`-bit number. -/
theorem tsField_toNat_lt (tsw : Nat) (w : CmdWord) : (tsField tsw w).toNat < 2 ^ tsw := by
  have h := wordField_lt w 0 tsw
  simp only [tsField, BitVec.toNat_ofNat]
  exact lt_of_le_of_lt (Nat.mod_le _ _) h

/-- Every decoded command has an encoding (R51). -/
theorem decode_wellFormed (tsw : Nat) (w : CmdWord) : (decode tsw w).wellFormed tsw = true := by
  unfold decode
  split <;> simp [Instr.wellFormed, tsField_toNat_lt]

end Sys2Proof
end

