-- ==== Sys2Proof/Laws/Frame.lean ====
section
/-! SUPPORT. The frame array: read after write, and its bytes and fields as numbers (R34 to R41, R77). -/

namespace Sys2Proof.Machine

@[simp] theorem nBits_eq : nBits = 40 := rfl
@[simp] theorem nBytes_eq : nBytes = 5 := rfl
@[simp] theorem nSkip_eq : nSkip = 2 := rfl
@[simp] theorem minEvents_eq : minEvents = 82 := rfl
@[simp] theorem evcntMax_eq : evcntMax = 127#7 := rfl

/-- R7: the least number of events is the two handshake artifacts and two per data bit, and a frame is
five bytes. -/
theorem minEvents_nBits : minEvents = nSkip + 2 * nBits ∧ nBits = 8 * nBytes := by decide

/-- Everything `frameBitWrite` does to a bit of `FRAME`. -/
theorem getLsbD_frameBitWrite (f : Frame) (k i : Nat) (b : Bool) (hk : k < 40) (hi : i < 40) :
    (frameBitWrite f k b).getLsbD i = if i = 39 - k then b else f.getLsbD i := by
  simp only [frameBitWrite, nBits_eq, hk, if_true, BitVec.getLsbD_or, BitVec.getLsbD_and,
    BitVec.getLsbD_not, BitVec.getLsbD_shiftLeft, BitVec.getLsbD_setWidth, BitVec.getLsbD_one,
    BitVec.getLsbD_ofBool]
  by_cases h : i = 39 - k
  · subst h
    have : 39 - k < 40 := by omega
    simp [this]
  · by_cases hlt : i < 39 - k
    · simp [h, hlt, hi]
    · have : ¬ i - (39 - k) = 0 := by omega
      simp [h, hlt, hi, this]

/-- Read after write on stream positions (R34, R36). -/
theorem frameBit_frameBitWrite (f : Frame) (k j : Nat) (b : Bool) (hk : k < 40) (hj : j < 40) :
    frameBit (frameBitWrite f k b) j = if j = k then b else frameBit f j := by
  have h : (39 - j = 39 - k) ↔ j = k := by omega
  simp only [frameBit, getLsbD_frameBitWrite f k _ b hk (show 39 - j < 40 by omega), h]

/-- A frame is fixed by its 40 stream positions. -/
theorem frame_ext {f g : Frame} (h : ∀ k < 40, frameBit f k = frameBit g k) : f = g := by
  apply BitVec.eq_of_getLsbD_eq
  intro i hi
  have := h (39 - i) (by omega)
  simpa [frameBit, show 39 - (39 - i) = i by omega] using this

/-- A byte of the frame array as a number (R16). -/
theorem frameByte_toNat (f : Frame) (j : Nat) :
    (frameByte f j).toNat = f.toNat / 2 ^ (32 - 8 * j) % 256 := by
  simp [frameByte, Nat.shiftRight_eq_div_pow]

/-- The checksum as a number: the exact sum of the four data bytes modulo 256 (R77). -/
theorem checksum_toNat (f : Frame) :
    (checksum f).toNat = ((frameByte f 0).toNat + (frameByte f 1).toNat + (frameByte f 2).toNat +
      (frameByte f 3).toNat) % 256 := by
  simp [checksum, BitVec.toNat_add]

/-- `MemRead(addr, n)` as a number: a slice of the frame (R37). -/
theorem memRead_toNat (f : Frame) (addr n : Nat) :
    (memRead f addr n).toNat = f.toNat / 2 ^ (40 - 8 * (addr + n)) % 2 ^ (8 * n) := by
  simp [memRead, Nat.shiftRight_eq_div_pow]

/-- A 16-bit field is its high byte times 256 plus its low byte (R38, R78). -/
theorem memRead_two_toNat (f : Frame) (addr : Nat) (h : addr ≤ 3) :
    (memRead f addr 2).toNat =
      (frameByte f addr).toNat * 256 + (frameByte f (addr + 1)).toNat := by
  have := f.isLt
  interval_cases addr <;> simp only [memRead_toNat, frameByte_toNat] <;> omega

/-- The five bytes make up the frame, the first one the most significant (R16). -/
theorem frame_toNat_eq_bytes (f : Frame) :
    f.toNat = (((frameByte f 0).toNat * 256 + (frameByte f 1).toNat) * 256 +
      (frameByte f 2).toNat) * 65536 + (frameByte f 3).toNat * 256 + (frameByte f 4).toNat := by
  have := f.isLt
  simp only [frameByte_toNat]
  omega

end Sys2Proof.Machine
end

