-- ==== Sys2Proof/Laws/State.lean ====
section
/-! SUPPORT. One lemma per field per update of `State`, each true by `rfl`, so that no proof unfolds an
update. -/

namespace Sys2Proof.Machine

variable (s : State)

/-! ### `clearStrobes` -/

@[simp] theorem State.clearStrobes_prevTs : s.clearStrobes.prevTs = s.prevTs := rfl
@[simp] theorem State.clearStrobes_frame : s.clearStrobes.frame = s.frame := rfl
@[simp] theorem State.clearStrobes_hum : s.clearStrobes.hum = s.hum := rfl
@[simp] theorem State.clearStrobes_temp : s.clearStrobes.temp = s.temp := rfl
@[simp] theorem State.clearStrobes_phase : s.clearStrobes.phase = s.phase := rfl
@[simp] theorem State.clearStrobes_evcnt : s.clearStrobes.evcnt = s.evcnt := rfl
@[simp] theorem State.clearStrobes_bitcnt : s.clearStrobes.bitcnt = s.bitcnt := rfl
@[simp] theorem State.clearStrobes_ovf : s.clearStrobes.ovf = s.ovf := rfl
@[simp] theorem State.clearStrobes_bstb : s.clearStrobes.bstb = false := rfl
@[simp] theorem State.clearStrobes_bval : s.clearStrobes.bval = false := rfl
@[simp] theorem State.clearStrobes_err : s.clearStrobes.err = s.err := rfl
@[simp] theorem State.clearStrobes_cfg : s.clearStrobes.cfg = s.cfg := rfl
@[simp] theorem State.clearStrobes_inputs : s.clearStrobes.inputs = s.inputs := rfl

/-! ### `strobe` -/

@[simp] theorem State.strobe_prevTs (b : Bool) : (s.strobe b).prevTs = s.prevTs := rfl
@[simp] theorem State.strobe_frame (b : Bool) : (s.strobe b).frame = s.frame := rfl
@[simp] theorem State.strobe_hum (b : Bool) : (s.strobe b).hum = s.hum := rfl
@[simp] theorem State.strobe_temp (b : Bool) : (s.strobe b).temp = s.temp := rfl
@[simp] theorem State.strobe_phase (b : Bool) : (s.strobe b).phase = s.phase := rfl
@[simp] theorem State.strobe_evcnt (b : Bool) : (s.strobe b).evcnt = s.evcnt := rfl
@[simp] theorem State.strobe_bitcnt (b : Bool) : (s.strobe b).bitcnt = s.bitcnt := rfl
@[simp] theorem State.strobe_ovf (b : Bool) : (s.strobe b).ovf = s.ovf := rfl
@[simp] theorem State.strobe_bstb (b : Bool) : (s.strobe b).bstb = true := rfl
@[simp] theorem State.strobe_bval (b : Bool) : (s.strobe b).bval = b := rfl
@[simp] theorem State.strobe_err (b : Bool) : (s.strobe b).err = s.err := rfl
@[simp] theorem State.strobe_cfg (b : Bool) : (s.strobe b).cfg = s.cfg := rfl
@[simp] theorem State.strobe_inputs (b : Bool) : (s.strobe b).inputs = s.inputs := rfl

/-! ### `setOvf` -/

@[simp] theorem State.setOvf_prevTs : s.setOvf.prevTs = s.prevTs := rfl
@[simp] theorem State.setOvf_frame : s.setOvf.frame = s.frame := rfl
@[simp] theorem State.setOvf_hum : s.setOvf.hum = s.hum := rfl
@[simp] theorem State.setOvf_temp : s.setOvf.temp = s.temp := rfl
@[simp] theorem State.setOvf_phase : s.setOvf.phase = s.phase := rfl
@[simp] theorem State.setOvf_evcnt : s.setOvf.evcnt = s.evcnt := rfl
@[simp] theorem State.setOvf_bitcnt : s.setOvf.bitcnt = s.bitcnt := rfl
@[simp] theorem State.setOvf_ovf : s.setOvf.ovf = true := rfl
@[simp] theorem State.setOvf_bstb : s.setOvf.bstb = s.bstb := rfl
@[simp] theorem State.setOvf_bval : s.setOvf.bval = s.bval := rfl
@[simp] theorem State.setOvf_err : s.setOvf.err = s.err := rfl
@[simp] theorem State.setOvf_cfg : s.setOvf.cfg = s.cfg := rfl
@[simp] theorem State.setOvf_inputs : s.setOvf.inputs = s.inputs := rfl

/-! ### `setPrevTs` -/

@[simp] theorem State.setPrevTs_prevTs (ts : Ts) : (s.setPrevTs ts).prevTs = truncTs s.cfg ts := rfl
@[simp] theorem State.setPrevTs_frame (ts : Ts) : (s.setPrevTs ts).frame = s.frame := rfl
@[simp] theorem State.setPrevTs_hum (ts : Ts) : (s.setPrevTs ts).hum = s.hum := rfl
@[simp] theorem State.setPrevTs_temp (ts : Ts) : (s.setPrevTs ts).temp = s.temp := rfl
@[simp] theorem State.setPrevTs_phase (ts : Ts) : (s.setPrevTs ts).phase = s.phase := rfl
@[simp] theorem State.setPrevTs_evcnt (ts : Ts) : (s.setPrevTs ts).evcnt = s.evcnt := rfl
@[simp] theorem State.setPrevTs_bitcnt (ts : Ts) : (s.setPrevTs ts).bitcnt = s.bitcnt := rfl
@[simp] theorem State.setPrevTs_ovf (ts : Ts) : (s.setPrevTs ts).ovf = s.ovf := rfl
@[simp] theorem State.setPrevTs_bstb (ts : Ts) : (s.setPrevTs ts).bstb = s.bstb := rfl
@[simp] theorem State.setPrevTs_bval (ts : Ts) : (s.setPrevTs ts).bval = s.bval := rfl
@[simp] theorem State.setPrevTs_err (ts : Ts) : (s.setPrevTs ts).err = s.err := rfl
@[simp] theorem State.setPrevTs_cfg (ts : Ts) : (s.setPrevTs ts).cfg = s.cfg := rfl
@[simp] theorem State.setPrevTs_inputs (ts : Ts) : (s.setPrevTs ts).inputs = s.inputs := rfl

/-! ### `countEvent` -/

@[simp] theorem State.countEvent_prevTs : s.countEvent.prevTs = s.prevTs := rfl
@[simp] theorem State.countEvent_frame : s.countEvent.frame = s.frame := rfl
@[simp] theorem State.countEvent_hum : s.countEvent.hum = s.hum := rfl
@[simp] theorem State.countEvent_temp : s.countEvent.temp = s.temp := rfl
@[simp] theorem State.countEvent_phase : s.countEvent.phase = s.phase := rfl
@[simp] theorem State.countEvent_evcnt : s.countEvent.evcnt = satInc s.evcnt evcntMax := rfl
@[simp] theorem State.countEvent_bitcnt : s.countEvent.bitcnt = s.bitcnt := rfl
@[simp] theorem State.countEvent_ovf : s.countEvent.ovf = s.ovf := rfl
@[simp] theorem State.countEvent_bstb : s.countEvent.bstb = s.bstb := rfl
@[simp] theorem State.countEvent_bval : s.countEvent.bval = s.bval := rfl
@[simp] theorem State.countEvent_err : s.countEvent.err = s.err := rfl
@[simp] theorem State.countEvent_cfg : s.countEvent.cfg = s.cfg := rfl
@[simp] theorem State.countEvent_inputs : s.countEvent.inputs = s.inputs := rfl

/-! ### `storeBit` -/

@[simp] theorem State.storeBit_prevTs (b : Bool) : (s.storeBit b).prevTs = s.prevTs := rfl
@[simp] theorem State.storeBit_frame (b : Bool) :
    (s.storeBit b).frame = frameBitWrite s.frame s.bitcnt.toNat b := rfl
@[simp] theorem State.storeBit_hum (b : Bool) : (s.storeBit b).hum = s.hum := rfl
@[simp] theorem State.storeBit_temp (b : Bool) : (s.storeBit b).temp = s.temp := rfl
@[simp] theorem State.storeBit_phase (b : Bool) : (s.storeBit b).phase = s.phase := rfl
@[simp] theorem State.storeBit_evcnt (b : Bool) : (s.storeBit b).evcnt = s.evcnt := rfl
@[simp] theorem State.storeBit_bitcnt (b : Bool) : (s.storeBit b).bitcnt = s.bitcnt + 1 := rfl
@[simp] theorem State.storeBit_ovf (b : Bool) : (s.storeBit b).ovf = s.ovf := rfl
@[simp] theorem State.storeBit_bstb (b : Bool) : (s.storeBit b).bstb = s.bstb := rfl
@[simp] theorem State.storeBit_bval (b : Bool) : (s.storeBit b).bval = s.bval := rfl
@[simp] theorem State.storeBit_err (b : Bool) : (s.storeBit b).err = s.err := rfl
@[simp] theorem State.storeBit_cfg (b : Bool) : (s.storeBit b).cfg = s.cfg := rfl
@[simp] theorem State.storeBit_inputs (b : Bool) : (s.storeBit b).inputs = s.inputs := rfl

/-! ### `clearRegisters` -/

@[simp] theorem State.clearRegisters_prevTs : s.clearRegisters.prevTs = 0 := rfl
@[simp] theorem State.clearRegisters_frame : s.clearRegisters.frame = 0 := rfl
@[simp] theorem State.clearRegisters_hum : s.clearRegisters.hum = 0 := rfl
@[simp] theorem State.clearRegisters_temp : s.clearRegisters.temp = 0 := rfl
@[simp] theorem State.clearRegisters_phase : s.clearRegisters.phase = .idle := rfl
@[simp] theorem State.clearRegisters_evcnt : s.clearRegisters.evcnt = 0 := rfl
@[simp] theorem State.clearRegisters_bitcnt : s.clearRegisters.bitcnt = 0 := rfl
@[simp] theorem State.clearRegisters_ovf : s.clearRegisters.ovf = false := rfl
@[simp] theorem State.clearRegisters_bstb : s.clearRegisters.bstb = false := rfl
@[simp] theorem State.clearRegisters_bval : s.clearRegisters.bval = false := rfl
@[simp] theorem State.clearRegisters_err : s.clearRegisters.err = .none := rfl
@[simp] theorem State.clearRegisters_cfg : s.clearRegisters.cfg = s.cfg := rfl
@[simp] theorem State.clearRegisters_inputs : s.clearRegisters.inputs = s.inputs := rfl

/-! ### `openCycle` -/

@[simp] theorem State.openCycle_prevTs : s.openCycle.prevTs = 0 := rfl
@[simp] theorem State.openCycle_frame : s.openCycle.frame = 0 := rfl
@[simp] theorem State.openCycle_hum : s.openCycle.hum = 0 := rfl
@[simp] theorem State.openCycle_temp : s.openCycle.temp = 0 := rfl
@[simp] theorem State.openCycle_phase : s.openCycle.phase = .capturing := rfl
@[simp] theorem State.openCycle_evcnt : s.openCycle.evcnt = 0 := rfl
@[simp] theorem State.openCycle_bitcnt : s.openCycle.bitcnt = 0 := rfl
@[simp] theorem State.openCycle_ovf : s.openCycle.ovf = false := rfl
@[simp] theorem State.openCycle_bstb : s.openCycle.bstb = false := rfl
@[simp] theorem State.openCycle_bval : s.openCycle.bval = false := rfl
@[simp] theorem State.openCycle_err : s.openCycle.err = .none := rfl
@[simp] theorem State.openCycle_cfg : s.openCycle.cfg = s.cfg := rfl
@[simp] theorem State.openCycle_inputs : s.openCycle.inputs = s.inputs := rfl

/-! ### `reject` -/

@[simp] theorem State.reject_prevTs (code : ErrKind) : (s.reject code).prevTs = s.prevTs := rfl
@[simp] theorem State.reject_frame (code : ErrKind) : (s.reject code).frame = s.frame := rfl
@[simp] theorem State.reject_hum (code : ErrKind) : (s.reject code).hum = 0 := rfl
@[simp] theorem State.reject_temp (code : ErrKind) : (s.reject code).temp = 0 := rfl
@[simp] theorem State.reject_phase (code : ErrKind) : (s.reject code).phase = .rejected := rfl
@[simp] theorem State.reject_evcnt (code : ErrKind) : (s.reject code).evcnt = s.evcnt := rfl
@[simp] theorem State.reject_bitcnt (code : ErrKind) : (s.reject code).bitcnt = s.bitcnt := rfl
@[simp] theorem State.reject_ovf (code : ErrKind) : (s.reject code).ovf = s.ovf := rfl
@[simp] theorem State.reject_bstb (code : ErrKind) : (s.reject code).bstb = s.bstb := rfl
@[simp] theorem State.reject_bval (code : ErrKind) : (s.reject code).bval = s.bval := rfl
@[simp] theorem State.reject_err (code : ErrKind) : (s.reject code).err = code := rfl
@[simp] theorem State.reject_cfg (code : ErrKind) : (s.reject code).cfg = s.cfg := rfl
@[simp] theorem State.reject_inputs (code : ErrKind) : (s.reject code).inputs = s.inputs := rfl

/-! ### `publish` -/

@[simp] theorem State.publish_prevTs : s.publish.prevTs = s.prevTs := rfl
@[simp] theorem State.publish_frame : s.publish.frame = s.frame := rfl
@[simp] theorem State.publish_hum : s.publish.hum = memRead s.frame 0 2 := rfl
@[simp] theorem State.publish_temp : s.publish.temp = memRead s.frame 2 2 := rfl
@[simp] theorem State.publish_phase : s.publish.phase = .validated := rfl
@[simp] theorem State.publish_evcnt : s.publish.evcnt = s.evcnt := rfl
@[simp] theorem State.publish_bitcnt : s.publish.bitcnt = s.bitcnt := rfl
@[simp] theorem State.publish_ovf : s.publish.ovf = s.ovf := rfl
@[simp] theorem State.publish_bstb : s.publish.bstb = s.bstb := rfl
@[simp] theorem State.publish_bval : s.publish.bval = s.bval := rfl
@[simp] theorem State.publish_err : s.publish.err = .none := rfl
@[simp] theorem State.publish_cfg : s.publish.cfg = s.cfg := rfl
@[simp] theorem State.publish_inputs : s.publish.inputs = s.inputs := rfl

/-! ### `consume` -/

@[simp] theorem State.consume_prevTs : s.consume.prevTs = s.prevTs := rfl
@[simp] theorem State.consume_frame : s.consume.frame = s.frame := rfl
@[simp] theorem State.consume_hum : s.consume.hum = s.hum := rfl
@[simp] theorem State.consume_temp : s.consume.temp = s.temp := rfl
@[simp] theorem State.consume_phase : s.consume.phase = s.phase := rfl
@[simp] theorem State.consume_evcnt : s.consume.evcnt = s.evcnt := rfl
@[simp] theorem State.consume_bitcnt : s.consume.bitcnt = s.bitcnt := rfl
@[simp] theorem State.consume_ovf : s.consume.ovf = s.ovf := rfl
@[simp] theorem State.consume_bstb : s.consume.bstb = s.bstb := rfl
@[simp] theorem State.consume_bval : s.consume.bval = s.bval := rfl
@[simp] theorem State.consume_err : s.consume.err = s.err := rfl
@[simp] theorem State.consume_cfg : s.consume.cfg = s.cfg := rfl
@[simp] theorem State.consume_inputs : s.consume.inputs = s.inputs.tail := rfl

/-! ### `State.reset` -/

@[simp] theorem State.reset_prevTs : State.reset.prevTs = 0 := rfl
@[simp] theorem State.reset_frame : State.reset.frame = 0 := rfl
@[simp] theorem State.reset_hum : State.reset.hum = 0 := rfl
@[simp] theorem State.reset_temp : State.reset.temp = 0 := rfl
@[simp] theorem State.reset_phase : State.reset.phase = .idle := rfl
@[simp] theorem State.reset_evcnt : State.reset.evcnt = 0 := rfl
@[simp] theorem State.reset_bitcnt : State.reset.bitcnt = 0 := rfl
@[simp] theorem State.reset_ovf : State.reset.ovf = false := rfl
@[simp] theorem State.reset_bstb : State.reset.bstb = false := rfl
@[simp] theorem State.reset_bval : State.reset.bval = false := rfl
@[simp] theorem State.reset_err : State.reset.err = .none := rfl
@[simp] theorem State.reset_cfg : State.reset.cfg = Config.defaults := rfl
@[simp] theorem State.reset_inputs : State.reset.inputs = [] := rfl

end Sys2Proof.Machine
end

