-- ==== Sys2Proof/Laws/Ops.lean ====
section
/-! SUPPORT. What each shared operation can do, said once. -/

namespace Sys2Proof.Machine

/-! ## Numbers -/

/-- The register `PREV_TS` holds the low `TSW` bits of what it is given. -/
theorem truncTs_toNat (c : Config) (ts : Ts) : (truncTs c ts).toNat = ts.toNat % 2 ^ c.tsw := by
  have : ts.toNat % 2 ^ c.tsw < 2 ^ 64 := lt_of_le_of_lt (Nat.mod_le _ _) ts.isLt
  simpa [truncTs] using this

theorem truncTs_toNat_lt (c : Config) (ts : Ts) : (truncTs c ts).toNat < 2 ^ c.tsw := by
  rw [truncTs_toNat]
  exact Nat.mod_lt _ (Nat.two_pow_pos _)

/-- A `TSW`-bit timestamp is stored as it stands (R49). -/
theorem truncTs_of_lt {c : Config} {ts : Ts} (h : ts.toNat < 2 ^ c.tsw) : truncTs c ts = ts :=
  BitVec.eq_of_toNat_eq (by rw [truncTs_toNat, Nat.mod_eq_of_lt h])

theorem elapsed_lt (c : Config) (ts prev : Ts) : elapsed c ts prev < 2 ^ c.tsw :=
  Nat.mod_lt _ (Nat.two_pow_pos _)

/-- The event counter counts one event and stops at 127 (R21). -/
theorem satInc_evcnt_toNat (v : BitVec 7) : (satInc v evcntMax).toNat = min (v.toNat + 1) 127 := by
  have hv := v.isLt
  simp only [satInc, evcntMax_eq, BitVec.lt_def, BitVec.toNat_ofNat]
  split
  · rw [BitVec.toNat_add, show (1 : BitVec 7).toNat = 1 from rfl]
    omega
  · rw [BitVec.toNat_ofNat]
    omega

/-- `BITCNT + 1` never exceeds 40 under the accumulator's guard (R73). -/
theorem bitcnt_succ_toNat {v : BitVec 6} (h : v.toNat < 40) : (v + 1).toNat = v.toNat + 1 := by
  rw [BitVec.toNat_add, show (1 : BitVec 6).toNat = 1 from rfl]
  omega

theorem decodesBit_iff (v : BitVec 7) (d : Dir) :
    decodesBit v d = true ↔ 3 ≤ v.toNat ∧ d = .falling := by
  simp [decodesBit]

/-! ## The accumulator and `EDGE` in `Capturing` -/

/-- The accumulator stores the bit or sets `OVF`, and nothing else (R69). -/
theorem accumulate_cases (b : Bool) (s : State) :
    (s.bitcnt.toNat < 40 ∧ s.accumulate b = s.storeBit b) ∨
      (40 ≤ s.bitcnt.toNat ∧ s.accumulate b = s.setOvf) := by
  by_cases h : s.bitcnt.toNat < 40
  · exact .inl ⟨h, by simp [State.accumulate, h]⟩
  · exact .inr ⟨by omega, by simp [State.accumulate, h]⟩

/-- `EDGE` in `Capturing` decodes a bit or not; either way it takes the timestamp and counts (R64). -/
theorem captureEdge_cases (d : Dir) (ts : Ts) (s : State) :
    (decodesBit s.evcnt d = false ∧ s.captureEdge d ts = (s.setPrevTs ts).countEvent) ∨
    (decodesBit s.evcnt d = true ∧ s.captureEdge d ts =
      ((s.deliverBit (classify s.cfg (elapsed s.cfg ts s.prevTs))).setPrevTs ts).countEvent) := by
  cases h : decodesBit s.evcnt d <;> simp [State.captureEdge, h]

section accumulate
variable (b : Bool) (s : State)

@[simp] theorem State.accumulate_prevTs : (s.accumulate b).prevTs = s.prevTs := by
  unfold State.accumulate; split <;> rfl
@[simp] theorem State.accumulate_hum : (s.accumulate b).hum = s.hum := by
  unfold State.accumulate; split <;> rfl
@[simp] theorem State.accumulate_temp : (s.accumulate b).temp = s.temp := by
  unfold State.accumulate; split <;> rfl
@[simp] theorem State.accumulate_phase : (s.accumulate b).phase = s.phase := by
  unfold State.accumulate; split <;> rfl
@[simp] theorem State.accumulate_evcnt : (s.accumulate b).evcnt = s.evcnt := by
  unfold State.accumulate; split <;> rfl
@[simp] theorem State.accumulate_bstb : (s.accumulate b).bstb = s.bstb := by
  unfold State.accumulate; split <;> rfl
@[simp] theorem State.accumulate_bval : (s.accumulate b).bval = s.bval := by
  unfold State.accumulate; split <;> rfl
@[simp] theorem State.accumulate_err : (s.accumulate b).err = s.err := by
  unfold State.accumulate; split <;> rfl
@[simp] theorem State.accumulate_cfg : (s.accumulate b).cfg = s.cfg := by
  unfold State.accumulate; split <;> rfl
@[simp] theorem State.accumulate_inputs : (s.accumulate b).inputs = s.inputs := by
  unfold State.accumulate; split <;> rfl

end accumulate

/-- What `EDGE` in `Capturing` leaves alone, and what it does whether or not it decodes a bit (R64, R70). -/
theorem captureEdge_kept (d : Dir) (ts : Ts) (s : State) :
    (s.captureEdge d ts).hum = s.hum ∧ (s.captureEdge d ts).temp = s.temp ∧
    (s.captureEdge d ts).phase = s.phase ∧ (s.captureEdge d ts).err = s.err ∧
    (s.captureEdge d ts).cfg = s.cfg ∧ (s.captureEdge d ts).inputs = s.inputs ∧
    (s.captureEdge d ts).prevTs = truncTs s.cfg ts ∧
    (s.captureEdge d ts).evcnt = satInc s.evcnt evcntMax := by
  rcases captureEdge_cases d ts s with ⟨-, h⟩ | ⟨-, h⟩ <;> rw [h] <;> simp [State.deliverBit]

/-! ## `FINISH` in `Capturing` -/

/-- The judgement publishes when the verdict names no error, and rejects with its code otherwise. -/
theorem judge_eq (timeout : Bool) (s : State) :
    s.judge timeout =
      if s.verdict timeout = .none then s.publish else s.reject (s.verdict timeout) := by
  unfold State.judge
  split <;> rename_i h <;> simp [h]

/-- The three checks as numbers. -/
theorem timedOut_iff (timeout : Bool) (s : State) :
    s.timedOut timeout = true ↔ timeout = true ∧ s.evcnt.toNat < 82 := by
  simp [State.timedOut]

theorem rightLength_iff (s : State) :
    s.rightLength = true ↔ 82 ≤ s.evcnt.toNat ∧ s.bitcnt.toNat = 40 ∧ s.ovf = false := by
  simp [State.rightLength, and_assoc]

theorem checksumOk_iff (s : State) :
    s.checksumOk = true ↔ (frameByte s.frame 4).toNat =
      ((frameByte s.frame 0).toNat + (frameByte s.frame 1).toNat + (frameByte s.frame 2).toNat +
        (frameByte s.frame 3).toNat) % 256 := by
  rw [← checksum_toNat]
  simp [State.checksumOk, BitVec.toNat_inj]

/-- The verdict passes a capture exactly when none of the three conditions of R74 holds. -/
theorem verdict_eq_none_iff (timeout : Bool) (s : State) :
    s.verdict timeout = .none ↔ s.rightLength = true ∧ s.checksumOk = true := by
  unfold State.verdict
  cases ht : s.timedOut timeout
  · cases s.rightLength <;> cases s.checksumOk <;> simp
  · have h := (timedOut_iff timeout s).1 ht
    have : s.rightLength = false := by
      cases hr : s.rightLength
      · rfl
      · have := (rightLength_iff s).1 hr
        omega
    simp [this]

/-- The verdict with its three checks as numbers, in the order of R74. -/
theorem verdict_eq (timeout : Bool) (s : State) :
    s.verdict timeout =
      if timeout = true ∧ s.evcnt.toNat < 82 then .captureTimeout
      else if s.evcnt.toNat < 82 ∨ s.bitcnt.toNat ≠ 40 ∨ s.ovf = true then .frameLengthError
      else if (frameByte s.frame 4).toNat ≠
          ((frameByte s.frame 0).toNat + (frameByte s.frame 1).toNat + (frameByte s.frame 2).toNat +
            (frameByte s.frame 3).toNat) % 256 then .checksumError
      else .none := by
  have e1 : s.timedOut timeout = decide (timeout = true ∧ s.evcnt.toNat < 82) := by
    rw [Bool.eq_iff_iff, timedOut_iff, decide_eq_true_eq]
  have e2 : s.rightLength =
      decide (82 ≤ s.evcnt.toNat ∧ s.bitcnt.toNat = 40 ∧ s.ovf = false) := by
    rw [Bool.eq_iff_iff, rightLength_iff, decide_eq_true_eq]
  have e3 : s.checksumOk = decide ((frameByte s.frame 4).toNat =
      ((frameByte s.frame 0).toNat + (frameByte s.frame 1).toNat + (frameByte s.frame 2).toNat +
        (frameByte s.frame 3).toNat) % 256) := by
    rw [Bool.eq_iff_iff, checksumOk_iff, decide_eq_true_eq]
  have h2 : (!decide (82 ≤ s.evcnt.toNat ∧ s.bitcnt.toNat = 40 ∧ s.ovf = false)) = true ↔
      s.evcnt.toNat < 82 ∨ s.bitcnt.toNat ≠ 40 ∨ s.ovf = true := by
    cases s.ovf <;> simp
  rw [State.verdict, e1, e2, e3]
  simp only [h2, decide_eq_true_eq, Bool.not_eq_true', decide_eq_false_iff_not]

/-- What `FINISH` in `Capturing` leaves alone (R81). -/
theorem judge_kept (timeout : Bool) (s : State) :
    (s.judge timeout).prevTs = s.prevTs ∧ (s.judge timeout).frame = s.frame ∧
    (s.judge timeout).evcnt = s.evcnt ∧ (s.judge timeout).bitcnt = s.bitcnt ∧
    (s.judge timeout).ovf = s.ovf ∧ (s.judge timeout).bstb = s.bstb ∧
    (s.judge timeout).bval = s.bval ∧ (s.judge timeout).cfg = s.cfg ∧
    (s.judge timeout).inputs = s.inputs := by
  rw [judge_eq]
  split <;> simp

end Sys2Proof.Machine
end

