-- ==== Sys2Proof/Laws/Step.lean ====
section
/-! SUPPORT. What `exec`, `step` and a run can do, said once: later proofs cite these lemmas instead of
unfolding the machine. -/

namespace Sys2Proof.Machine

/-- The state after one command, as a function (R5). -/
def afterCommand (i : Instr) (s : State) : State :=
  match i with
  | .start => s.openCycle
  | .clear => s.clearRegisters
  | .edge d ts => if s.phase = .capturing then s.clearStrobes.captureEdge d ts else s.clearStrobes
  | .finish timeout => if s.phase = .capturing then s.clearStrobes.judge timeout else s.clearStrobes
  | .nop | .rsvd5 | .rsvd6 | .rsvd7 => s.clearStrobes

/-- Every command answers a next state. -/
theorem exec_eq (i : Instr) (s : State) : exec i s = .next (afterCommand i s) := by
  cases i <;> simp only [exec, afterCommand, execNop, execStart, execClear, execRsvd5, execRsvd6,
    execRsvd7, execEdge, execFinish] <;> split <;> rfl

/-- The state after one clock edge, as a function (R58). -/
def afterStep (s : State) : State :=
  if s.sample.rst then s.consume.clearRegisters
  else afterCommand (decode s.cfg.tsw s.sample.cmd) s.consume

/-- Every clock edge answers a next state. -/
theorem step_eq (s : State) : step s = .next (afterStep s) := by
  unfold step afterStep
  split
  · rfl
  · exact exec_eq _ _

/-- Inversion of a step: it was a reset step, or it executed the sampled command. -/
theorem step_cases {s t : State} (h : step s = .next t) :
    (s.sample.rst = true ∧ t = s.consume.clearRegisters) ∨
      (s.sample.rst = false ∧ t = afterCommand (decode s.cfg.tsw s.sample.cmd) s.consume) := by
  rw [step_eq] at h
  injection h with h
  subst h
  cases hr : s.sample.rst <;> simp [afterStep, hr]

/-- The last of `k + 1` clock edges comes after the first `k`. -/
theorem core_run_succ (k : Nat) (s : State) :
    Sys2Proof.core.run (k + 1) s = Sys2Proof.core.run k (afterStep s) := by
  have h : Sys2Proof.core.step s = .next (afterStep s) := step_eq s
  simp only [Host.Core.run, h]

/-- Every run answers a next state. -/
theorem core_run_eq (k : Nat) (s : State) : Sys2Proof.core.run k s = .next (afterStep^[k] s) := by
  induction k generalizing s with
  | zero => rfl
  | succ k ih => rw [core_run_succ, ih, Function.iterate_succ_apply]

@[simp] theorem afterCommand_cfg (i : Instr) (s : State) : (afterCommand i s).cfg = s.cfg := by
  cases i <;> simp only [afterCommand] <;> (try split) <;>
    simp [(captureEdge_kept _ _ _).2.2.2.2.1, (judge_kept _ _).2.2.2.2.2.2.2.1]

@[simp] theorem afterCommand_inputs (i : Instr) (s : State) :
    (afterCommand i s).inputs = s.inputs := by
  cases i <;> simp only [afterCommand] <;> (try split) <;>
    simp [(captureEdge_kept _ _ _).2.2.2.2.2.1, (judge_kept _ _).2.2.2.2.2.2.2.2]

/-! ## The ports and the registers do not mix -/

/-- The same registers with another driver. -/
def State.withInputs (s : State) (xs : List PortSample) : State := { s with inputs := xs }

theorem accumulate_withInputs (b : Bool) (s : State) (xs : List PortSample) :
    (s.withInputs xs).accumulate b = (s.accumulate b).withInputs xs := by
  by_cases h : s.bitcnt.toNat < nBits
  · have h' : (s.withInputs xs).bitcnt.toNat < nBits := h
    rw [State.accumulate, State.accumulate, if_pos h, if_pos h']
    rfl
  · have h' : ¬ (s.withInputs xs).bitcnt.toNat < nBits := h
    rw [State.accumulate, State.accumulate, if_neg h, if_neg h']
    rfl

theorem captureEdge_withInputs (d : Dir) (ts : Ts) (s : State) (xs : List PortSample) :
    (s.withInputs xs).captureEdge d ts = (s.captureEdge d ts).withInputs xs := by
  rcases captureEdge_cases d ts s with ⟨h, e⟩ | ⟨h, e⟩ <;>
    rcases captureEdge_cases d ts (s.withInputs xs) with ⟨h', e'⟩ | ⟨h', e'⟩
  · rw [e, e']
    rfl
  · exact absurd (h.symm.trans h') (by simp)
  · exact absurd (h'.symm.trans h) (by simp)
  · rw [e, e', State.deliverBit, State.deliverBit]
    exact congrArg (fun q => State.countEvent (State.setPrevTs ts q))
      (accumulate_withInputs _ (s.strobe _) xs)

theorem judge_withInputs (timeout : Bool) (s : State) (xs : List PortSample) :
    (s.withInputs xs).judge timeout = (s.judge timeout).withInputs xs := by
  have e : (s.withInputs xs).verdict timeout = s.verdict timeout := rfl
  rw [judge_eq, judge_eq, e]
  by_cases h : s.verdict timeout = .none
  · rw [if_pos h, if_pos h]
    rfl
  · rw [if_neg h, if_neg h]
    rfl

/-- A command does the same to the registers whatever the driver does later. -/
theorem afterCommand_withInputs (i : Instr) (s : State) (xs : List PortSample) :
    afterCommand i (s.withInputs xs) = (afterCommand i s).withInputs xs := by
  have e : (s.withInputs xs).phase = s.phase := rfl
  cases i with
  | edge d ts =>
    simp only [afterCommand, e]
    split
    · exact captureEdge_withInputs d ts s.clearStrobes xs
    · rfl
  | finish timeout =>
    simp only [afterCommand, e]
    split
    · exact judge_withInputs timeout s.clearStrobes xs
    · rfl
  | _ => rfl

/-- One clock edge takes one sample and leaves the later ones. -/
theorem afterStep_withInputs (x : PortSample) (s : State) (xs : List PortSample) :
    afterStep (s.withInputs (x :: xs)) =
      (if x.rst then s.clearRegisters
        else afterCommand (decode s.cfg.tsw x.cmd) s).withInputs xs := by
  have e : (s.withInputs (x :: xs)).sample = x := rfl
  simp only [afterStep, e]
  split
  · rfl
  · exact afterCommand_withInputs _ s xs

end Sys2Proof.Machine
end

