-- ==== Sys2Proof/Laws/Driver.lean ====
section
/-! SUPPORT. What one sample of the driver can do to an open capture, said once (R107, R112). -/

namespace Sys2Proof.Machine

/-- `START`, `CLEAR` and reset are the samples that clear the block. -/
theorem clearsBlock_iff (tsw : Nat) (x : PortSample) :
    clearsBlock tsw x = true ↔
      x.rst = true ∨ decode tsw x.cmd = .start ∨ decode tsw x.cmd = .clear := by
  cases h : decode tsw x.cmd <;> simp [clearsBlock, h]

/-- `Bounded` of a sequence, one sample at a time. -/
theorem dutyBounded_cons (tsw : Nat) (x : PortSample) (xs : List PortSample) (p : DriverPlace) :
    dutyBounded tsw (x :: xs) p = true ↔
      (p ≠ .outside → clearsBlock tsw x = false) ∧ dutyBounded tsw xs (placeAfter tsw x p) = true := by
  cases p <;> cases h : clearsBlock tsw x <;> simp [dutyBounded, h]

/-- `Bounded` of a sequence holds of its end, from the driver's place there. -/
theorem dutyBounded_append (tsw : Nat) (xs ys : List PortSample) (p : DriverPlace)
    (h : dutyBounded tsw (xs ++ ys) p = true) :
    dutyBounded tsw ys (placeAfterAll tsw xs p) = true := by
  induction xs generalizing p with
  | nil => exact h
  | cons x xs ih => exact ih _ ((dutyBounded_cons tsw x (xs ++ ys) p).1 h).2

/-- The phase after `FINISH` in `Capturing` (R74). -/
theorem judge_phase (timeout : Bool) (s : State) :
    (s.judge timeout).phase = .validated ∨
      (s.judge timeout).phase = .rejected ∧ (s.judge timeout).err ≠ .none := by
  rw [judge_eq]
  split
  · exact .inl rfl
  · exact .inr ⟨rfl, ‹_›⟩

/-- A sample that does not clear the block, in an open capture: either it is a `FINISH`, and then the
driver stands outside, or the capture stays open for the block and for the driver. -/
theorem openCapture_cases {tsw : Nat} {x : PortSample} {p : DriverPlace} {s : State}
    (ht : s.cfg.tsw = tsw) (hp : p ≠ .outside) (hs : s.phase = .capturing)
    (hx : clearsBlock tsw x = false) :
    x.rst = false ∧
      ((∃ timeout, decode tsw x.cmd = .finish timeout ∧ placeAfter tsw x p = .outside) ∨
        ((∀ timeout, decode tsw x.cmd ≠ .finish timeout) ∧ placeAfter tsw x p ≠ .outside ∧
          (afterCommand (decode s.cfg.tsw x.cmd) s).phase = .capturing)) := by
  have hr : x.rst = false := by
    cases h : x.rst
    · rfl
    · simp [clearsBlock, h] at hx
  refine ⟨hr, ?_⟩
  rw [ht]
  cases hd : decode tsw x.cmd with
  | start => simp [clearsBlock, hd] at hx
  | clear => simp [clearsBlock, hd] at hx
  | finish timeout => exact .inl ⟨timeout, rfl, by simp [placeAfter, hr, hd, placeAfterCommand]⟩
  | edge d ts =>
    refine .inr ⟨by simp, ?_, ?_⟩
    · cases p <;> simp_all [placeAfter, placeAfterCommand]
    · simp only [afterCommand, hs, if_true, (captureEdge_kept _ _ _).2.2.1, State.clearStrobes_phase]
  | _ => exact .inr ⟨by simp, by simpa [placeAfter, hr, hd, placeAfterCommand] using hp, hs⟩

end Sys2Proof.Machine
end

