-- ==== Sys2Proof/Laws/PerInstr.lean ====
section
/-! SUPPORT. Statements made per instruction, about the instruction as syntax. -/

namespace Sys2Proof.Laws.EncodeFits

/-- The canonical word of a well-formed command has no bit above `TSW + 3`, so it fits the port `cmd`
(R46, R50). -/
def Statement (i : Instr) : Prop :=
  ∀ tsw, tsw ≤ 64 → i.wellFormed tsw = true → (encode tsw i).toNat < 2 ^ (tsw + 4)

/-- A packed word whose fields fit is no wider than the port. -/
theorem of_pack {tsw op ts : Nat} (f : Bool) (hw : tsw ≤ 64) (hop : op < 8) (hts : ts < 2 ^ tsw) :
    (packWord tsw op f ts).toNat < 2 ^ (tsw + 4) := by
  have h := packWord_toNat f hw hop hts
  omega

theorem nop : Statement .nop := fun tsw hw _ => of_pack false hw (by decide) (Nat.two_pow_pos tsw)

theorem start : Statement .start := fun tsw hw _ => of_pack false hw (by decide) (Nat.two_pow_pos tsw)

theorem edge (dir : Dir) (ts : Ts) : Statement (.edge dir ts) := fun _ hw h =>
  of_pack dir.toBit hw (by decide) (by simpa [Instr.wellFormed] using h)

theorem finish (timeout : Bool) : Statement (.finish timeout) := fun tsw hw _ =>
  of_pack timeout hw (by decide) (Nat.two_pow_pos tsw)

theorem clear : Statement .clear := fun tsw hw _ => of_pack false hw (by decide) (Nat.two_pow_pos tsw)

theorem rsvd5 : Statement .rsvd5 := fun tsw hw _ => of_pack false hw (by decide) (Nat.two_pow_pos tsw)

theorem rsvd6 : Statement .rsvd6 := fun tsw hw _ => of_pack false hw (by decide) (Nat.two_pow_pos tsw)

theorem rsvd7 : Statement .rsvd7 := fun tsw hw _ => of_pack false hw (by decide) (Nat.two_pow_pos tsw)

end Sys2Proof.Laws.EncodeFits
end

