-- ==== Sys2Proof/Tests/Slice0.lean ====
section
/-! SUPPORT. Tests of the model, their expected results from the tables of 95_test_vectors.md, and for each
obligation with hypotheses a named witness that they can be met. -/

namespace Sys2Proof.Tests

open Sys2Proof Sys2Proof.Machine

/-! ## Decoding: words written out bit by bit, `OP` `F` `TS` (95_test_vectors.md section 2.1) -/

theorem test_decode_start :
    decode 32 0b001_0_00000000000000000000000000000000 = .start := by decide
theorem test_decode_start_reserved_bits :
    decode 32 0b001_1_11111111111111111111111111111111 = .start := by decide
theorem test_decode_edge_rising :
    decode 32 0b010_1_00000000000000000000000010001100 = .edge .rising 140 := by decide
theorem test_decode_edge_falling :
    decode 32 0b010_0_00000000000000000000000010100110 = .edge .falling 166 := by decide
theorem test_decode_edge_largest :
    decode 32 0b010_0_11111111111111111111111111111111 = .edge .falling 4294967295 := by decide
theorem test_decode_finish :
    decode 32 0b011_0_00000000000000000000000011111111 = .finish false := by decide
theorem test_decode_finish_timeout :
    decode 32 0b011_1_11011110101011011011111011101111 = .finish true := by decide
theorem test_decode_clear :
    decode 32 0b100_1_00000000000000000000000000000000 = .clear := by decide
theorem test_decode_nop :
    decode 32 0b000_1_11111111111111111111111111111111 = .nop := by decide
theorem test_decode_reserved :
    decode 32 0b101_0_00000000000000000000000000000000 = .rsvd5 ∧
    decode 32 0b110_0_00000000000000000000000000000000 = .rsvd6 ∧
    decode 32 0b111_1_11111111111111111111111111111111 = .rsvd7 := by decide

/-- R50: at `TSW = 8` the word has 12 bits. -/
theorem test_decode_tsw8 : decode 8 0b010_1_10001100 = .edge .rising 140 := by decide

theorem test_table_word : decodeTableWord 36 0x4000000A6 = some (.edge .falling 166) := by decide

/-! ## Well-formedness -/

/-- A timestamp wider than `TSW` has no encoding, so it is refused. -/
theorem test_wellFormed_refuses_wide_timestamp :
    Instr.wellFormed 8 (.edge .rising 256) = false ∧ Instr.wellFormed 8 (.edge .rising 255) = true := by
  decide

/-- Parameters outside R6's ranges are no legal configuration. -/
theorem test_config_ranges :
    ¬ Config.legal { tsw := 7, threshold := 0 } ∧ ¬ Config.legal { tsw := 65, threshold := 0 } ∧
    ¬ Config.legal { tsw := 8, threshold := 256 } ∧ Config.legal { tsw := 8, threshold := 255 } := by
  decide

theorem test_word_wider_than_port :
    (decodeNat 32 0x1000000000).toOption = none ∧ (decodeNat 32 0xFFFFFFFFF).toOption = some .rsvd7 := by
  decide

/-! ## Trace text (30_encoding.md section 4) -/

theorem test_text_edge :
    readLine 32 "EDGE F, 0xA6  ; first bit".toList = some (.command (.edge .falling 166)) := by decide
theorem test_text_pseudo :
    readLine 32 "TIMEOUT".toList = some .timeout ∧ readLine 32 "IDLE 2".toList = some (.idle 2) ∧
    readLine 8 "RISE 256".toList = none ∧ readLine 8 "RISE 255".toList = some (.rise 255) := by decide

/-! ## One step (95_test_vectors.md sections 2.2 to 2.4) -/

/-- The next state, if there is one. -/
def nextOf : Host.Outcome State Fault Refusal → Option State
  | .next t => some t
  | .fault _ => none
  | .refused _ => none

/-- One step on a word. -/
def stepOn (s : State) (w : CmdWord) : Option State :=
  nextOf (step { s with inputs := [commandSample w] })

/-- A capture in progress, at the default parameters. -/
def capture (evcnt : BitVec 7) (bitcnt : BitVec 6) (prevTs : Ts) (frame : Frame) : State :=
  { State.reset with phase := .capturing, evcnt, bitcnt, prevTs, frame }

/-- The validated cycle of the vectors. -/
def validatedCycle : State :=
  { capture 82 40 3746 0x013800C3FC with phase := .validated, hum := 312, temp := 195 }

/-- The rejected cycle of the vectors. -/
def rejectedCycle : State :=
  { capture 82 40 3790 0x013800C3FD with phase := .rejected, err := .checksumError }

/-- The capture of V-CTL-11, a bit just strobed. -/
def strobed : State := { capture 5 1 242 0x8000000000 with bstb := true, bval := true }

/-- V-CTL-11. -/
theorem test_nop : stepOn strobed 0x000000000 = some { strobed with bstb := false, bval := false } := by
  decide
/-- V-CTL-04. -/
theorem test_start : stepOn validatedCycle 0x200000000 = some (capture 0 0 0 0) := by decide
/-- V-CTL-07. -/
theorem test_clear : stepOn rejectedCycle 0x800000000 = some State.reset := by decide
/-- V-CTL-12. -/
theorem test_rsvd5 : stepOn strobed 0xA00000000 = some { strobed with bstb := false, bval := false } := by
  decide
/-- R62, any state. -/
theorem test_rsvd6 : stepOn strobed 0xC00000000 = some { strobed with bstb := false, bval := false } := by
  decide
/-- V-CTL-13. -/
theorem test_rsvd7 : stepOn validatedCycle 0xE00000000 = some validatedCycle := by decide
/-- V-CTL-01: reset has priority over the command. -/
theorem test_reset :
    nextOf (step { validatedCycle with inputs := [{ rst := true, cmd := 0x200000000 }] }) =
      some State.reset := by decide
/-- V-EDGE-10: the timer wrapped, 48 units, bit 1. -/
theorem test_edge_wrap : stepOn (capture 4 0 0xFFFFFFF0 0) 0x400000020 =
    some { capture 5 1 32 0x8000000000 with bstb := true, bval := true } := by decide
/-- V-EDGE-15: the 41st bit is dropped. -/
theorem test_edge_dropped : stepOn (capture 83 40 3796 0x013800C3FC) 0x400000F1A =
    some { capture 84 40 3866 0x013800C3FC with ovf := true, bstb := true, bval := true } := by decide
/-- V-FIN-01: the source's end-to-end frame. -/
theorem test_finish_validates : stepOn (capture 82 40 4000 0x013800C3FC) 0x600000000 =
    some { capture 82 40 4000 0x013800C3FC with phase := .validated, hum := 312, temp := 195 } := by
  decide
/-- V-FIN-04: the timeout comes before the length. -/
theorem test_finish_timeout : stepOn (capture 10 4 394 0) 0x700000000 =
    some { capture 10 4 394 0 with phase := .rejected, err := .captureTimeout } := by decide
/-- 95_test_vectors.md P1, the ports at the end. -/
theorem test_outputs : validatedCycle.outputs =
    { phase := 2, err := 0, done := true, valid := true, humidity := 312, temperature := 195,
      bitStb := false, bitVal := false } := by decide

/-! ## Witnesses: the hypotheses of each obligation can be met, at the boundary of each clause -/

theorem witness_DecodeInvertsEncode :
    Instr.wellFormed 8 (.edge .rising 255) = true ∧
    Instr.wellFormed 64 (.edge .falling 0xFFFFFFFFFFFFFFFF) = true := by decide

/-- Every opcode occurs, at the smallest and the largest `TSW`, with every reserved bit 1. -/
theorem witness_DecodingIsTotalOnOpField :
    (∀ op < 8, ((packWord 8 op true 255).extractLsb' 9 3).toNat = op) ∧
    (∀ op < 8, ((packWord 64 op true 0xFFFFFFFFFFFFFFFF).extractLsb' 65 3).toNat = op) ∧
    opcodeTable.length = 8 := by decide

theorem witness_ReservedFieldsAreIgnored : State.reset.cfg.legal ∧
    opField 32 0x1FFFFFFFF = 0 ∧ opField 32 0x4000000A6 = 2 ∧ opField 32 0x7DEADBEEF = 3 ∧
    opField 32 0xFFFFFFFFF = 7 := by decide

theorem witness_OtherWidthsShiftTheOpcodeTable :
    (8 ≤ 8 ∧ 8 ≤ 64 ∧ { mnemonic := "EDGE", pattern := 0x400000000, mask := 0xE00000000 } ∈ opcodeTable) ∧
    (8 ≤ 64 ∧ 64 ≤ 64) := by decide

theorem witness_PseudoCommandsExpandToCommands :
    TraceLine.rise 255 ≠ .reset ∧ (∀ i ∈ (TraceLine.rise 255).commands, i.wellFormed 8 = true) ∧
    TraceLine.idle 0 ≠ .reset ∧ (∀ i ∈ (TraceLine.idle 0).commands, i.wellFormed 64 = true) := by decide

/-- A state whose next samples are as given. -/
def withPorts (s : State) (xs : List PortSample) : State := { s with inputs := xs }

theorem witness_StepExecutesTheSampledCommand :
    (withPorts State.reset [{ rst := false, cmd := 0x200000000 }]).inputs =
      { rst := false, cmd := 0x200000000 } :: [] ∧
    decode State.reset.cfg.tsw 0x200000000 = .start ∧ State.reset.inputs = [] := by decide

theorem witness_FetchWordRunsTheTableCommand : State.reset.cfg.tsw = 32 ∧ 2 ^ 36 - 1 < 2 ^ 36 := by
  decide

theorem witness_ResetStepZeroesEveryRegister :
    (withPorts strobed [{ rst := true, cmd := 0x200000000 }]).inputs =
      { rst := true, cmd := 0x200000000 } :: [] ∧
    (withPorts strobed [{ rst := false, cmd := 0x200000000 }]).inputs =
      { rst := false, cmd := 0x200000000 } :: [] := by decide

theorem witness_CyclesAreIndependent :
    validatedCycle.cfg = strobed.cfg ∧
    (withPorts validatedCycle [idleSample]).inputs = (withPorts strobed [idleSample]).inputs ∧
    ({ rst := true, cmd := 0 } : PortSample).rst = true ∧
    decode validatedCycle.cfg.tsw 0x200000000 = .start ∧
    decode validatedCycle.cfg.tsw 0x800000000 = .clear := by decide

theorem witness_NopClearsStrobesAndIsOtherwiseInvisible :
    ∀ w ∈ [(0x000000000 : CmdWord), 0x1FFFFFFFF], decode strobed.cfg.tsw w = .nop := by
  intro w hw
  simp only [List.mem_cons, List.not_mem_nil, or_false] at hw
  rcases hw with rfl | rfl <;> decide

/-- The reset state and a full capture satisfy R33. -/
theorem witness_inv : State.reset.Inv ∧ (capture 82 40 4000 0x013800C3FC).Inv ∧ strobed.Inv ∧
    validatedCycle.Inv ∧ rejectedCycle.Inv := by
  refine ⟨?_, ?_, ?_, ?_, ?_⟩ <;> constructor <;> decide

theorem witness_ClearReturnsToTheResetState : State.reset.Inv ∧ State.reset.phase = .idle :=
  ⟨witness_inv.1, rfl⟩

theorem witness_PhaseMachineFollowsItsTable :
    (withPorts strobed [{ rst := true, cmd := 0 }]).sample.rst = true ∧
    (∃ t, step (withPorts (capture 82 40 4000 0x013800C3FC) [commandSample 0x600000000]) = .next t ∧
      t.done = true ∧ (capture 82 40 4000 0x013800C3FC).done = false) ∧
    (∃ t, step (withPorts validatedCycle [commandSample 0x200000000]) = .next t ∧
      validatedCycle.done = true ∧ t.done = false) :=
  ⟨rfl, ⟨_, rfl, rfl, rfl⟩, ⟨_, rfl, rfl, rfl⟩⟩

theorem witness_EdgeOutsideCapturingActsAsNop : State.reset.phase ≠ .capturing ∧
    validatedCycle.phase ≠ .capturing ∧ rejectedCycle.phase ≠ .capturing := by decide

/-- The largest timestamp, and a state for each branch of R64. -/
theorem witness_EdgeFollowsItsPseudocode :
    2 ^ 32 - 1 < 2 ^ 32 ∧ State.reset.cfg.legal ∧ (0xFFFFFFFF : Ts).toNat < 2 ^ State.reset.cfg.tsw ∧
    (∀ s ∈ [capture 2 0 0 0, capture 3 39 0 0, capture 127 40 0 0],
      s.phase = .capturing ∧ s.cfg.legal) ∧ State.reset.phase ≠ .capturing := by decide

theorem witness_HandshakeSeedAndRisingEventsDecodeNothing :
    (capture 2 0 0 0).phase = .capturing ∧ (capture 2 0 0 0).evcnt.toNat < 3 ∧
    (capture 3 0 0 0).phase = .capturing := by decide

theorem witness_ElapsedIsTheModularDifference :
    Config.legal { tsw := 8, threshold := 35 } ∧ (96 : Ts).toNat < 2 ^ 8 ∧
    (80 : Ts).toNat < (96 : Ts).toNat ∧ 200 < 455 ∧ 455 - 200 < 2 ^ 8 := by decide

/-- V-EDGE-04 to V-EDGE-06, V-EDGE-11 and V-EDGE-13, and the largest threshold. -/
theorem witness_ThresholdComparisonIsStrict :
    (capture 3 0 900 0).phase = .capturing ∧ 3 ≤ (capture 3 0 900 0).evcnt.toNat ∧
    (capture 3 0 900 0).cfg.threshold = 35 ∧ (capture 3 0 900 0).cfg.legal ∧
    elapsed Config.defaults 934 900 = 34 ∧ elapsed Config.defaults 935 900 = 35 ∧
    elapsed Config.defaults 936 900 = 36 ∧ elapsed Config.defaults 82 82 = 0 ∧
    elapsed Config.defaults 0 1 = 2 ^ 32 - 1 ∧ Config.legal { tsw := 8, threshold := 2 ^ 8 - 1 } ∧
    (∃ t, exec (.edge .falling 934) (capture 3 0 900 0) = .next t) :=
  ⟨rfl, by decide, rfl, by decide, by decide, by decide, by decide, by decide, by decide, by decide,
    ⟨_, rfl⟩⟩

theorem witness_AccumulatorStoresThenDrops :
    (∀ s ∈ [capture 3 0 0 0, capture 81 39 3720 0x013800C3FC, capture 83 40 3796 0x013800C3FC],
      s.phase = .capturing ∧ 3 ≤ s.evcnt.toNat) ∧
    (capture 81 39 3720 0x013800C3FC).bitcnt.toNat < 40 ∧
    (capture 83 40 3796 0x013800C3FC).bitcnt.toNat = 40 ∧
    (∃ s : State, s.phase = .capturing ∧ s.ovf = true) :=
  ⟨by decide, by decide, by decide, { capture 84 40 0 0 with ovf := true }, rfl, rfl⟩

theorem witness_EdgeAlwaysTakesTimestampAndCounts :
    (capture 126 0 0 0).phase = .capturing ∧ (0xFFFFFFFF : Ts).toNat < 2 ^ (capture 126 0 0 0).cfg.tsw ∧
    (capture 127 0 0 0).evcnt.toNat = 127 ∧ 3 ≤ (3 : BitVec 7).toNat ∧ (126 : BitVec 7).toNat ≤ 126 := by
  decide

/-- A bit is stored at position 39, in byte 4; positions 0 to 38 and bytes 0 to 3 are the rest. -/
theorem witness_EdgeLeavesTheRestAlone :
    (capture 81 39 3720 0).phase = .capturing ∧ (capture 81 39 3720 0).bitcnt.toNat = 39 ∧
    38 ≠ (capture 81 39 3720 0).bitcnt.toNat ∧ 3 ≠ (capture 81 39 3720 0).bitcnt.toNat / 8 := by decide

/-- V-EDGE-06: the first bit stored is 1. -/
theorem witness_FrameBitsAreWrittenOnceInOrder :
    (withPorts (capture 3 0 900 0) [commandSample 0x4000003A8]).Inv ∧
    (capture 3 0 900 0).bitcnt.toNat ≤ 39 ∧
    ∃ t, step (withPorts (capture 3 0 900 0) [commandSample 0x4000003A8]) = .next t ∧
      t.frame ≠ (capture 3 0 900 0).frame ∧ t.frame ≠ 0 :=
  ⟨by constructor <;> decide, by decide, _, rfl, by decide, by decide⟩

theorem witness_FrameBytesAreThePackedBits :
    (List.replicate 40 true).length = 40 ∧
    ∀ k < 40, frameBit 0xFFFFFFFFFF k = (List.replicate 40 true).getD k false := by decide

theorem witness_MemReadIsBigEndian : (4 ≤ 4 ∧ 1 ≤ 1 ∧ 1 ≤ 5 - 4) ∧ (0 ≤ 4 ∧ 1 ≤ 5 ∧ 5 ≤ 5 - 0) := by
  decide

/-- The words of the pulses of a list of bits, with the durations of 95_test_vectors.md section 0, from a
given instant on, a `NOP` and a reserved opcode between each two events. -/
def pulses : Nat → List Bool → List CmdWord
  | _, [] => []
  | t, b :: bs =>
    let fall := t + 50 + if b then 70 else 26
    encode 32 (.edge .rising (BitVec.ofNat 64 (t + 50))) :: 0x000000000 ::
      encode 32 (.edge .falling (BitVec.ofNat 64 fall)) :: 0xC00000000 :: pulses fall bs

/-- The window W82 of a frame's bits (95_test_vectors.md section 0). -/
def window82 (bits : List Bool) : List CmdWord :=
  [encode 32 (.edge .rising 10), encode 32 (.edge .falling 90)] ++ pulses 90 bits

/-- The bits of a frame in stream order. -/
def bitsOf (f : Frame) : List Bool := (List.range 40).map (frameBit f)

set_option maxRecDepth 20000 in
theorem witness_StreamingAgreesWithTheBatchDecoder :
    decode 32 0x200000000 = .start ∧
    (∀ w ∈ window82 (bitsOf 0x013800C3FC), insideWindow (decode 32 w) = true) ∧
    (withPorts State.reset (commandSample 0x200000000 ::
      ((window82 (bitsOf 0x013800C3FC)).map commandSample ++ [idleSample]))).inputs =
      commandSample 0x200000000 ::
        ((window82 (bitsOf 0x013800C3FC)).map commandSample ++ [idleSample]) :=
  ⟨by decide, List.all_eq_true.1 (by decide), rfl⟩

/-- Alternating windows whose third event is Rising, and whose third event is Falling. -/
theorem witness_StreamingAgreesWithTheBatchDecoder_alternating :
    (alternates [⟨.rising, 10⟩, ⟨.falling, 90⟩, ⟨.rising, 140⟩, ⟨.falling, 166⟩] = true ∧
      ∃ e ∈ ([⟨.rising, 10⟩, ⟨.falling, 90⟩, ⟨.rising, 140⟩] : List Event)[2]?, e.dir = .rising) ∧
    (alternates [⟨.falling, 10⟩, ⟨.rising, 90⟩, ⟨.falling, 170⟩] = true ∧
      ∃ e ∈ ([⟨.falling, 10⟩, ⟨.rising, 90⟩, ⟨.falling, 170⟩] : List Event)[2]?, e.dir = .falling) :=
  ⟨⟨by decide, _, rfl, rfl⟩, ⟨by decide, _, rfl, rfl⟩⟩

/-- A state for each branch of R74, and one outside `Capturing`. -/
theorem witness_FinishFollowsItsPseudocode :
    (∀ s ∈ [capture 81 39 0 0, capture 82 40 0 0x013800C3FD, capture 82 40 0 0x013800C3FC],
      s.phase = .capturing) ∧
    (capture 81 39 0 0).evcnt.toNat < 82 ∧ (capture 82 40 0 0).bitcnt.toNat = 40 ∧
    State.reset.phase ≠ .capturing := by decide

theorem witness_FinishOutsideCapturingActsAsNop : rejectedCycle.phase ≠ .capturing ∧
    ∃ t, exec (.finish true) (capture 81 39 0 0) = .next t := ⟨by decide, _, rfl⟩

theorem witness_CaptureTimeoutIsRaisedExactly :
    (capture 81 39 0 0).phase = .capturing ∧ (capture 81 39 0 0).evcnt.toNat < 82 ∧
    (capture 82 40 0 0).phase = .capturing ∧ 82 ≤ (capture 82 40 0 0).evcnt.toNat := by decide

theorem witness_FrameLengthErrorIsRaisedExactly :
    (capture 81 40 0 0).phase = .capturing ∧ (capture 82 39 0 0).phase = .capturing := by decide

theorem witness_ChecksumErrorIsRaisedExactly :
    (capture 82 40 0 0x013800C3FD).phase = .capturing ∧
    (frameByte 0x013800C3FD 4).toNat ≠ (1 + 56 + 0 + 195) % 256 := by decide

theorem witness_ValidatedReadingIsHighTimes256PlusLow :
    ∃ t, exec (.finish false) (capture 82 40 4000 0x013800C3FC) = .next t ∧ t.phase = .validated :=
  ⟨_, rfl, rfl⟩

theorem witness_FinishLeavesTheCaptureAlone : (∃ t, exec .start validatedCycle = .next t) ∧
    ∃ t, exec .clear validatedCycle = .next t := ⟨⟨_, rfl⟩, ⟨_, rfl⟩⟩

theorem witness_RejectionWritesOnlyTheVerdict :
    (∃ t, exec (.finish true) (capture 81 39 0 0) = .next t ∧ t.phase = .rejected) ∧
    (∃ t, exec (.finish false) (capture 81 39 0 0) = .next t ∧ t.phase = .rejected) ∧
    (∃ t, exec (.finish false) (capture 82 40 0 0x013800C3FD) = .next t ∧ t.phase = .rejected) :=
  ⟨⟨_, rfl, rfl⟩, ⟨_, rfl, rfl⟩, ⟨_, rfl, rfl⟩⟩

/-- V-FIN-01, and V-FIN-21, whose byte 0 is another. -/
theorem witness_ChecksumCatchesEverySingleByteError :
    (capture 82 40 4000 0x013800C3FC).frame = (1 : Byte) ++ (56 : Byte) ++ (0 : Byte) ++ (195 : Byte) ++
      BitVec.ofNat 8 (((1 : Byte).toNat + (56 : Byte).toNat + (0 : Byte).toNat + (195 : Byte).toNat) % 256) ∧
    (capture 82 40 4000 0x013800C3FC).phase = .capturing ∧
    (∃ t, exec (.finish false) (capture 82 40 4000 0x013800C3FC) = .next t ∧ t.phase = .validated) ∧
    frameByte 0x023800C3FC 0 ≠ frameByte 0x013800C3FC 0 ∧
    (∀ k < 5, k ≠ 0 → frameByte 0x023800C3FC k = frameByte 0x013800C3FC k) :=
  ⟨by decide, rfl, ⟨_, rfl, rfl⟩, by decide, by decide⟩

theorem witness_TimeoutFlagOnlyNamesTheRejection :
    (capture 81 39 0 0).phase = .capturing ∧ 82 ≤ (capture 82 40 0 0).evcnt.toNat ∧
    nextOf (exec (.finish true) (capture 81 39 0 0)) ≠
      nextOf (exec (.finish false) (capture 81 39 0 0)) := by decide

/-- The hypotheses on a whole cycle's words. -/
def cycleWords (ws : List CmdWord) (finish : CmdWord) (timeout : Bool) : Prop :=
  decode 32 0x200000000 = .start ∧ decode 32 finish = .finish timeout ∧
    ∀ w ∈ ws, insideWindow (decode 32 w) = true

set_option maxRecDepth 20000 in
/-- A window of two events, with the deadline reported and not. -/
theorem witness_CycleOutcomeFollowsFromTheWindow_short :
    cycleWords (window82 []) 0x700000000 true ∧ cycleWords (window82 []) 0x600000000 false ∧
    (eventsOf 32 (window82 [])).length < 82 := by
  refine ⟨⟨?_, ?_, List.all_eq_true.1 ?_⟩, ⟨?_, ?_, List.all_eq_true.1 ?_⟩, ?_⟩ <;> decide

set_option maxRecDepth 20000 in
/-- The windows of V-WIN-03 and V-WIN-09: 82 events, 40 bits, a right and a wrong checksum. -/
theorem witness_CycleOutcomeFollowsFromTheWindow_full :
    cycleWords (window82 (bitsOf 0x013800C3FC)) 0x600000000 false ∧
    (eventsOf 32 (window82 (bitsOf 0x013800C3FC))).length = 82 ∧
    packedBytes (batchBits Config.defaults (eventsOf 32 (window82 (bitsOf 0x013800C3FC)))) =
      [1, 56, 0, 195, 252] ∧ (1 + 56 + 0 + 195) % 256 = 252 ∧
    packedBytes (batchBits Config.defaults (eventsOf 32 (window82 (bitsOf 0x013800C3FD)))) =
      [1, 56, 0, 195, 253] ∧
    (batchBits Config.defaults (eventsOf 32 (window82 (bitsOf 0x013800C3FD)))).length = 40 := by
  refine ⟨⟨?_, ?_, List.all_eq_true.1 ?_⟩, ?_, ?_, ?_, ?_, ?_⟩ <;> decide

theorem witness_ResetStateSatisfiesTheInvariants : Config.legal Config.defaults ∧
    Config.legal { tsw := 64, threshold := 2 ^ 64 - 1 } := by decide

theorem witness_EveryStepKeepsTheInvariants :
    (withPorts (capture 81 39 3720 0x013800C3FC) [commandSample 0x400000ECE]).Inv ∧
    ∃ t, step (withPorts (capture 81 39 3720 0x013800C3FC) [commandSample 0x400000ECE]) = .next t :=
  ⟨by constructor <;> decide, _, rfl⟩

/-- A reset state, and a capture with no event. -/
theorem witness_ReachableStatesSatisfyTheInvariants :
    Reachable (withPorts State.reset [commandSample 0x200000000]) ∧ Reachable (capture 0 0 0 0) :=
  ⟨.reset Config.defaults _ (by decide),
    .step (withPorts State.reset [commandSample 0x200000000]) _
      (.reset Config.defaults _ (by decide)) rfl⟩

theorem witness_StrobesReportExactlyTheDecodedBits :
    (withPorts (capture 3 0 900 0) [commandSample 0x4000003A8]).decodesNow = true ∧
    (withPorts (capture 2 0 900 0) [commandSample 0x4000003A8]).decodesNow = false ∧
    (∃ t, step (withPorts (capture 3 0 900 0) [commandSample 0x4000003A8]) = .next t ∧
      t.bstb = true) := ⟨rfl, rfl, _, rfl, rfl⟩

/-- V-EDGE-15 sets `OVF`, `START` clears it, and the length check then fails. -/
theorem witness_OverflowIsStickyWithinACycle :
    (withPorts (capture 83 40 3796 0x013800C3FC) [commandSample 0x400000F1A]).Inv ∧
    (∃ t, step (withPorts (capture 83 40 3796 0x013800C3FC) [commandSample 0x400000F1A]) = .next t ∧
      (capture 83 40 3796 0x013800C3FC).ovf = false ∧ t.ovf = true) ∧
    (∃ s t : State, s.phase = .capturing ∧ s.ovf = true ∧ 82 ≤ s.evcnt.toNat ∧ step s = .next t ∧
      t.ovf = false) :=
  ⟨by constructor <;> decide, ⟨_, rfl, rfl, rfl⟩,
    withPorts { capture 84 40 3866 0 with ovf := true } [commandSample 0x200000000], _, rfl, rfl,
    by decide, rfl, rfl⟩

theorem witness_OnlyFinishInCapturingRaisesAnError :
    ∃ t, step (withPorts (capture 0 0 0 0) [commandSample 0x600000000]) = .next t ∧ t.err ≠ .none ∧
      t.err ≠ (capture 0 0 0 0).err := ⟨_, rfl, by decide, by decide⟩

theorem witness_VerdictStandsUntilCleared :
    rejectedCycle.done = true ∧
    (withPorts rejectedCycle [commandSample 0x700000000]).commandNow = some (.finish true) ∧
    (withPorts rejectedCycle [{ rst := true, cmd := 0 }]).commandNow = none ∧
    (withPorts rejectedCycle [commandSample 0x800000000]).commandNow = some .clear ∧
    (withPorts rejectedCycle [commandSample 0x200000000]).commandNow = some .start ∧
    ∃ t, step (withPorts rejectedCycle [commandSample 0x700000000]) = .next t :=
  ⟨rfl, rfl, rfl, rfl, rfl, _, rfl⟩

theorem witness_OutputPortsFollowTheRegisters : validatedCycle.Inv ∧
    validatedCycle.outputs.valid = true ∧ rejectedCycle.Inv ∧ rejectedCycle.outputs.valid = false :=
  ⟨witness_inv.2.2.2.1, rfl, witness_inv.2.2.2.2, rfl⟩

theorem witness_NothingPartialIsSurfaced :
    validatedCycle.Inv ∧ validatedCycle.hum ≠ 0 ∧ rejectedCycle.Inv ∧ rejectedCycle.phase = .rejected :=
  ⟨witness_inv.2.2.2.1, by decide, witness_inv.2.2.2.2, rfl⟩

theorem witness_CaptureWaitsForItsEnd : (capture 5 1 0 0).phase = .capturing ∧
    ∀ w ∈ [(0x200000000 : CmdWord), 0x4000000A6, 0x000000000, 0xFFFFFFFFF],
      (commandSample w).rst = false ∧ decode 32 w ≠ .clear ∧ ∀ timeout, decode 32 w ≠ .finish timeout := by
  refine ⟨rfl, fun w hw => ?_⟩
  simp only [List.mem_cons, List.not_mem_nil, or_false] at hw
  rcases hw with rfl | rfl | rfl | rfl <;> decide

/-- R107: a capture ended by `CLEAR` or reset, replaced by `START` or left open is not ended by `FINISH`. -/
theorem test_duty_bounded :
    dutyBounded 32 [commandSample 0x200000000, commandSample 0x800000000] .outside = false ∧
    dutyBounded 32 [commandSample 0x200000000, { rst := true, cmd := 0 }] .outside = false ∧
    dutyBounded 32 [commandSample 0x200000000, commandSample 0x200000000,
      commandSample 0x600000000] .outside = false ∧
    dutyBounded 32 [commandSample 0x200000000, commandSample 0x50000000A] .outside = false ∧
    dutyBounded 32 [commandSample 0x200000000, commandSample 0x600000000,
      commandSample 0x800000000] .outside = true := by decide

/-- The shortest capture, `START` then `FINISH`, as the whole sequence and after a finished cycle. -/
theorem witness_BoundedCapturesEndInAVerdict :
    decode 32 0x200000000 = .start ∧
    dutyBounded 32 ([] ++ commandSample 0x200000000 :: [commandSample 0x600000000]) .outside = true ∧
    dutyBounded 32 ([commandSample 0x200000000, commandSample 0x700000000] ++
      commandSample 0x200000000 :: [commandSample 0x50000000A, commandSample 0x700000000])
      .outside = true := by decide

theorem witness_StartFirstLosesNoEvent :
    decode 32 0x50000000A = .edge .rising 10 ∧
    dutyResetFirst ([{ rst := true, cmd := 0 }, commandSample 0x200000000] ++
      commandSample 0x50000000A :: []) = true ∧
    dutyStartFirst 32 ([{ rst := true, cmd := 0 }, commandSample 0x200000000] ++
      commandSample 0x50000000A :: []) .outside = true := by decide

/-- Two handshake artifacts, then a pulse across the wrap of an 8-bit timer. -/
theorem witness_OrderedTimestampsGiveTheTrueBits :
    Config.legal { tsw := 8, threshold := 35 } ∧
    dutyOrdered { tsw := 8, threshold := 35 } [⟨.rising, 10, true⟩, ⟨.falling, 90, true⟩,
      ⟨.rising, 230, false⟩, ⟨.falling, 300, false⟩] = true := by decide

end Sys2Proof.Tests
end

section
/-! Proofs of the family `00_scope.md`: nothing survives from one measurement cycle into the next (R12). -/

namespace Sys2Proof.Machine

/-- Clearing forgets every register: only the parameters and the driver are left (R61, R99). -/
theorem State.clearRegisters_congr {s s' : State} (hc : s.cfg = s'.cfg) (hi : s.inputs = s'.inputs) :
    s.clearRegisters = s'.clearRegisters := by
  simp only [State.clearRegisters, hc, hi]

/-- A clock edge that clears the block forgets every register: the state after it is fixed by the
parameters and the driver (R12). -/
theorem afterStep_congr_of_clearsBlock {s s' : State} (hc : s.cfg = s'.cfg)
    (hi : s.inputs = s'.inputs) (hx : clearsBlock s.cfg.tsw s.sample = true) :
    afterStep s = afterStep s' := by
  have hsample : s.sample = s'.sample := congrArg (·.headD idleSample) hi
  have hclear : s.consume.clearRegisters = s'.consume.clearRegisters :=
    State.clearRegisters_congr hc (congrArg List.tail hi)
  unfold afterStep
  rw [← hsample, ← hc]
  rcases (clearsBlock_iff _ _).1 hx with hrst | hstart | hcmd
  · rw [if_pos hrst, if_pos hrst, hclear]
  · simp only [hstart, afterCommand, State.openCycle, hclear]
  · simp only [hcmd, afterCommand, hclear]

/-- Settles O12: the first step leaves the two blocks in the same state, and the run goes on from there. -/
theorem cyclesAreIndependent : Obligations.CyclesAreIndependent := by
  intro s s' x rest k hc hs hs' hx
  have hsample : s.sample = x := congrArg (·.headD idleSample) hs
  have hclears : clearsBlock s.cfg.tsw s.sample = true := (clearsBlock_iff _ _).2 (hsample ▸ hx)
  have hstep : afterStep s = afterStep s' :=
    afterStep_congr_of_clearsBlock hc (hs.trans hs'.symm) hclears
  calc runSteps (k + 1) s
    _ = runSteps k (afterStep s) := core_run_succ k s
    _ = runSteps k (afterStep s') := by rw [hstep]
    _ = runSteps (k + 1) s' := (core_run_succ k s').symm

end Sys2Proof.Machine
end

section
/-! Proofs of the family `10_state.md`: the invariants of R33 are kept by every step, so every reachable
state has them; and what a clock edge does to the strobes, to `OVF` and to the ports (R23, R24, R28, R31). -/

namespace Sys2Proof.Machine

/-! ## The invariants of R33, one operation at a time -/

/-- The low `n` bits of a vector are 0 when its number is a multiple of `2^n`. -/
theorem toNat_mod_two_pow_eq_zero_iff {w : Nat} (f : BitVec w) (n : Nat) :
    f.toNat % 2 ^ n = 0 ↔ ∀ i < n, f.getLsbD i = false := by
  simp only [← BitVec.testBit_toNat]
  constructor
  · intro h i hi
    simpa [h, hi] using (Nat.testBit_mod_two_pow f.toNat n i).symm
  · intro h
    apply Nat.eq_of_testBit_eq
    intro i
    by_cases hi : i < n <;> simp [Nat.testBit_mod_two_pow, hi, h]

/-- R33 item 6 bit by bit: the positions from `BITCNT` up hold 0. -/
theorem nothingBelowFill_iff (s : State) :
    nothingBelowFill s ↔
      (s.bitcnt.toNat < 40 → ∀ i < 40 - s.bitcnt.toNat, s.frame.getLsbD i = false) := by
  rw [nothingBelowFill, toNat_mod_two_pow_eq_zero_iff]

/-- In `Capturing` the items about the verdict come down to `ERR`, `HUM` and `TEMP` being 0. -/
theorem State.Inv.of_capturing {s : State} (hp : s.phase = .capturing) (he : s.err = .none)
    (hh : s.hum = 0) (ht : s.temp = 0) (hcount : bitCountBounded s) (hfill : nothingBelowFill s)
    (hevents : bitsFromEvents s) (hstrobe : valueOnlyWithStrobe s) (hfits : registersFit s) :
    s.Inv where
  idle h := by simp [hp] at h
  beforeVerdict _ := ⟨he, hh, ht⟩
  rejected := by simp [rejectedIffError, hp, he]
  validated h := by simp [hp] at h
  bitCount := hcount
  belowFill := hfill
  events := hevents
  strobe := hstrobe
  fits := hfits

/-- Taking a sample off the ports touches no register. -/
theorem State.Inv.consume {s : State} (h : s.Inv) : s.consume.Inv where
  idle hp := congrArg State.consume (h.idle hp)
  beforeVerdict := h.beforeVerdict
  rejected := h.rejected
  validated := h.validated
  bitCount := h.bitCount
  belowFill := h.belowFill
  events := h.events
  strobe := h.strobe
  fits := h.fits

theorem State.Inv.clearStrobes {s : State} (h : s.Inv) : s.clearStrobes.Inv where
  idle hp := congrArg State.clearStrobes (h.idle hp)
  beforeVerdict := h.beforeVerdict
  rejected := ⟨h.rejected.1, fun hp => ⟨(h.rejected.2 hp).1, (h.rejected.2 hp).2.1, rfl⟩⟩
  validated := h.validated
  bitCount := h.bitCount
  belowFill := h.belowFill
  events := h.events
  strobe _ := rfl
  fits := h.fits

/-- The state every reset step and every `CLEAR` leaves (R31). -/
theorem State.Inv.clearRegisters {s : State} (hc : s.cfg.legal) : s.clearRegisters.Inv where
  idle _ := rfl
  beforeVerdict _ := ⟨rfl, rfl, rfl⟩
  rejected := by simp [rejectedIffError]
  validated h := by simp at h
  bitCount := by simp [bitCountBounded]
  belowFill _ := by simp
  events _ := by simp
  strobe _ := rfl
  fits := ⟨hc, by simp⟩

theorem State.Inv.openCycle {s : State} (hc : s.cfg.legal) : s.openCycle.Inv :=
  have h : s.clearRegisters.Inv := .clearRegisters hc
  .of_capturing rfl rfl rfl rfl h.bitCount h.belowFill h.events h.strobe h.fits

/-- The accumulator stops at 40 bits, and only there sets `OVF` (R69). -/
theorem bitCountBounded_accumulate {s : State} (h : bitCountBounded s) (b : Bool) :
    bitCountBounded (s.accumulate b) := by
  obtain ⟨hle, hovf⟩ := h
  rcases accumulate_cases b s with ⟨hlt, e⟩ | ⟨hge, e⟩ <;> rw [e]
  · have hn := bitcnt_succ_toNat hlt
    refine ⟨by simp only [State.storeBit_bitcnt]; omega, fun ho => ?_⟩
    have := hovf ho
    omega
  · exact ⟨hle, fun _ => Nat.le_antisymm hle hge⟩

/-- A stored bit is written above the positions that stay 0 (R36, R69). -/
theorem nothingBelowFill_accumulate {s : State} (h : nothingBelowFill s) (b : Bool) :
    nothingBelowFill (s.accumulate b) := by
  rcases accumulate_cases b s with ⟨hlt, e⟩ | ⟨-, e⟩ <;> rw [e]
  · rw [nothingBelowFill_iff] at h ⊢
    simp only [State.storeBit_bitcnt, State.storeBit_frame, bitcnt_succ_toNat hlt]
    intro _ i hi
    rw [getLsbD_frameBitWrite _ _ _ _ hlt (by omega), if_neg (by omega)]
    exact h hlt i (by omega)
  · exact h

/-- One decoded bit is counted at most once, in `BITCNT` or in `OVF`. -/
theorem accumulate_count_le (b : Bool) (s : State) :
    (s.accumulate b).bitcnt.toNat + (s.accumulate b).ovf.toNat ≤
      s.bitcnt.toNat + s.ovf.toNat + 1 := by
  rcases accumulate_cases b s with ⟨hlt, e⟩ | ⟨-, e⟩ <;> rw [e]
  · have hn := bitcnt_succ_toNat hlt
    simp only [State.storeBit_bitcnt, State.storeBit_ovf]
    omega
  · simp

/-- R33 item 7 under `EDGE`: a bit comes only from an event after the third (R65). -/
theorem bitsFromEvents_captureEdge {s : State} (h : bitsFromEvents s) (d : Dir) (ts : Ts) :
    bitsFromEvents (s.captureEdge d ts) := by
  have hinc := satInc_evcnt_toNat s.evcnt
  rcases captureEdge_cases d ts s with ⟨-, e⟩ | ⟨hd, e⟩ <;> rw [e] <;> intro hlt <;>
    simp only [State.countEvent_evcnt, State.setPrevTs_evcnt, State.countEvent_bitcnt,
      State.setPrevTs_bitcnt, State.countEvent_ovf, State.setPrevTs_ovf, State.deliverBit,
      State.accumulate_evcnt, State.strobe_evcnt] at hlt ⊢
  · have := h (by omega)
    omega
  · have hthree := ((decodesBit_iff _ _).1 hd).1
    have hone := accumulate_count_le (classify s.cfg (elapsed s.cfg ts s.prevTs))
      (s.strobe (classify s.cfg (elapsed s.cfg ts s.prevTs)))
    simp only [State.strobe_bitcnt, State.strobe_ovf] at hone
    have := h (by omega)
    omega

theorem State.Inv.captureEdge {s : State} (h : s.Inv) (hp : s.phase = .capturing) (d : Dir)
    (ts : Ts) : (s.captureEdge d ts).Inv := by
  obtain ⟨hhum, htemp, hphase, herr, hcfg, -, hprev, -⟩ := captureEdge_kept d ts s
  obtain ⟨he, hh, ht⟩ := h.beforeVerdict (.inr hp)
  have hfits : registersFit (s.captureEdge d ts) := by
    rw [registersFit, hcfg, hprev]
    exact ⟨h.fits.1, truncTs_toNat_lt _ _⟩
  have hevents := bitsFromEvents_captureEdge h.events d ts
  refine .of_capturing (hphase.trans hp) (herr.trans he) (hhum.trans hh) (htemp.trans ht)
    ?_ ?_ hevents ?_ hfits <;> rcases captureEdge_cases d ts s with ⟨-, e⟩ | ⟨-, e⟩ <;> rw [e]
  · exact h.bitCount
  · exact bitCountBounded_accumulate (s := s.strobe _) h.bitCount _
  · exact h.belowFill
  · exact nothingBelowFill_accumulate (s := s.strobe _) h.belowFill _
  · exact h.strobe
  · intro hb
    simp [State.deliverBit] at hb

/-- The Reading a passed verdict publishes meets R33 item 4 (R74, R78). -/
theorem State.Inv.publish {s : State} (h : s.Inv) {timeout : Bool}
    (hv : s.verdict timeout = .none) : s.publish.Inv := by
  obtain ⟨hlen, hsum⟩ := (verdict_eq_none_iff timeout s).1 hv
  obtain ⟨hev, hbits, hovf⟩ := (rightLength_iff s).1 hlen
  exact {
    idle := fun hp => by simp at hp
    beforeVerdict := fun hp => by simp at hp
    rejected := by simp [rejectedIffError]
    validated := fun _ => ⟨rfl, hbits, hovf, hev, (checksumOk_iff s).1 hsum,
      memRead_two_toNat s.frame 0 (by omega), memRead_two_toNat s.frame 2 (by omega)⟩
    bitCount := h.bitCount
    belowFill := h.belowFill
    events := h.events
    strobe := h.strobe
    fits := h.fits }

/-- A rejection for a cause meets R33 item 3 once the strobes are 0 (R88). -/
theorem State.Inv.reject {s : State} (h : s.Inv) (hb : s.bstb = false) {code : ErrKind}
    (hcode : code ≠ .none) : (s.reject code).Inv where
  idle hp := by simp at hp
  beforeVerdict hp := by simp at hp
  rejected := by simp [rejectedIffError, hb, hcode]
  validated hp := by simp at hp
  bitCount := h.bitCount
  belowFill := h.belowFill
  events := h.events
  strobe := h.strobe
  fits := h.fits

theorem State.Inv.judge {s : State} (h : s.Inv) (hb : s.bstb = false) (timeout : Bool) :
    (s.judge timeout).Inv := by
  rw [judge_eq]
  split
  · next hv => exact h.publish hv
  · next hv => exact h.reject hb hv

/-! ## The invariants of R33, along a run -/

theorem State.Inv.afterCommand {s : State} (h : s.Inv) (i : Instr) : (afterCommand i s).Inv := by
  cases i with
  | start => exact .openCycle h.fits.1
  | clear => exact .clearRegisters h.fits.1
  | edge d ts =>
    rw [Machine.afterCommand]
    split
    · next hp => exact h.clearStrobes.captureEdge hp d ts
    · exact h.clearStrobes
  | finish timeout =>
    rw [Machine.afterCommand]
    split
    · exact h.clearStrobes.judge rfl timeout
    · exact h.clearStrobes
  | nop | rsvd5 | rsvd6 | rsvd7 => exact h.clearStrobes

/-- Every step keeps the invariants of R33. -/
theorem State.Inv.of_step {s t : State} (h : s.Inv) (hst : step s = .next t) : t.Inv := by
  rcases step_cases hst with ⟨-, rfl⟩ | ⟨-, rfl⟩
  · exact .clearRegisters h.fits.1
  · exact h.consume.afterCommand _

/-- The invariants of R33 hold along every run from a reset state. -/
theorem Reachable.inv {s : State} (h : Reachable s) : s.Inv := by
  induction h with
  | reset c xs hc => exact .clearRegisters (s := { State.reset with cfg := c, inputs := xs }) hc
  | step s t _ hst ih => exact ih.of_step hst

/-- Settles O43: R33 is an inductive invariant, its item 6 read bit by bit. -/
theorem reachableStatesSatisfyTheInvariants : Obligations.ReachableStatesSatisfyTheInvariants := by
  intro s hs
  have h : s.Inv := hs.inv
  refine ⟨fun hp => (h.idle hp).symm, h.beforeVerdict, h.rejected, h.validated, h.bitCount,
    fun hlt i hi => ?_, fun hlt => ?_, h.strobe⟩
  · exact (nothingBelowFill_iff s).1 h.belowFill hlt i (by omega)
  · have := h.events hlt
    omega

/-! ## A clock edge as an observer sees it -/

theorem State.sample_of_inputs {s : State} {x : PortSample} {rest : List PortSample}
    (h : s.inputs = x :: rest) : s.sample = x := congrArg (·.headD idleSample) h

theorem State.consume_of_inputs {s : State} {x : PortSample} {rest : List PortSample}
    (h : s.inputs = x :: rest) : s.consume = { s with inputs := rest } := by
  rw [State.consume, h, List.tail_cons]

theorem eq_afterStep_of_step {s t : State} (h : step s = .next t) : t = afterStep s := by
  rw [step_eq] at h
  exact (Host.Outcome.next.inj h).symm

/-- Inversion of a step by the command an observer sees, none at a reset step (R58). -/
theorem afterStep_cases (s : State) :
    (s.commandNow = none ∧ afterStep s = s.consume.clearRegisters) ∨
      (∃ i, s.commandNow = some i ∧ afterStep s = afterCommand i s.consume) := by
  cases hr : s.sample.rst
  · exact .inr ⟨decode s.cfg.tsw s.sample.cmd, by simp [State.commandNow, hr],
      by simp [afterStep, hr]⟩
  · exact .inl ⟨by simp [State.commandNow, hr], by simp [afterStep, hr]⟩

/-- What a clock edge does to the strobes, `OVF` and `FRAME` (R23, R24): it clears the block, or delivers
the bit it decodes, or leaves the capture as it was with both strobes 0. -/
theorem afterStep_capture_cases (s : State) :
    ((s.commandNow = none ∨ s.commandNow = some .start ∨ s.commandNow = some .clear) ∧
      s.decodesNow = false ∧ (afterStep s).bstb = false ∧ (afterStep s).bval = false ∧
      (afterStep s).ovf = false) ∨
    (s.decodesNow = true ∧ ∃ ts, afterStep s =
      ((s.consume.clearStrobes.deliverBit s.bitNow).setPrevTs ts).countEvent) ∨
    (s.decodesNow = false ∧ (afterStep s).bstb = false ∧ (afterStep s).bval = false ∧
      (afterStep s).ovf = s.ovf ∧ (afterStep s).frame = s.frame) := by
  rcases afterStep_cases s with ⟨hc, e⟩ | ⟨i, hc, e⟩ <;> rw [e]
  · exact .inl ⟨.inl hc, by simp [State.decodesNow, hc]⟩
  cases i with
  | start => exact .inl ⟨.inr (.inl hc), by simp [State.decodesNow, hc, afterCommand]⟩
  | clear => exact .inl ⟨.inr (.inr hc), by simp [State.decodesNow, hc, afterCommand]⟩
  | edge d ts =>
    right
    by_cases hp : s.phase = .capturing
    · rw [afterCommand, if_pos (show s.consume.phase = .capturing from hp)]
      rcases captureEdge_cases d ts s.consume.clearStrobes with ⟨hd, e⟩ | ⟨hd, e⟩ <;> rw [e]
      · exact .inr ⟨by simpa [State.decodesNow, hc] using fun _ => hd, rfl, rfl, rfl, rfl⟩
      · exact .inl ⟨by simpa [State.decodesNow, hc, hp] using hd, ts, by
          simp [State.bitNow, hc]⟩
    · rw [afterCommand, if_neg (show s.consume.phase ≠ .capturing from hp)]
      exact .inr ⟨by simp [State.decodesNow, hc, hp], rfl, rfl, rfl, rfl⟩
  | finish timeout =>
    refine .inr (.inr ⟨by simp [State.decodesNow, hc], ?_⟩)
    rw [afterCommand]
    split
    · obtain ⟨-, hframe, -, -, hovf, hbstb, hbval, -, -⟩ :=
        judge_kept timeout s.consume.clearStrobes
      exact ⟨hbstb, hbval, hovf, hframe⟩
    · exact ⟨rfl, rfl, rfl, rfl⟩
  | nop | rsvd5 | rsvd6 | rsvd7 =>
    exact .inr (.inr ⟨by simp [State.decodesNow, hc], rfl, rfl, rfl, rfl⟩)

/-- No command reads the strobes: each clears them first or is blind to them (R24, R58). -/
theorem exec_clearStrobes (i : Instr) (s : State) : exec i s.clearStrobes = exec i s := by
  cases i <;> rfl

/-- Settles O44: a decoded bit goes to the strobes, every other step leaves them 0, and commands cannot
tell two states apart that differ only there. -/
theorem strobesReportExactlyTheDecodedBits : Obligations.StrobesReportExactlyTheDecodedBits := by
  refine ⟨fun s t hst => ?_, fun s i x y => ?_⟩
  · obtain rfl := eq_afterStep_of_step hst
    rcases afterStep_capture_cases s with ⟨-, hd, hbstb, hbval, -⟩ | ⟨hd, ts, e⟩ |
      ⟨hd, hbstb, hbval, -, -⟩
    · exact ⟨by simp [hd, hbstb], by simp [hd], fun _ => hbval, rfl, rfl⟩
    · rw [e]
      exact ⟨by simp [hd, State.deliverBit], by simp [State.deliverBit], by simp [hd], rfl, rfl⟩
    · exact ⟨by simp [hd, hbstb], by simp [hd], fun _ => hbval, rfl, rfl⟩
  · calc exec i { s with bstb := x, bval := y }
      _ = exec i s.clearStrobes := (exec_clearStrobes i { s with bstb := x, bval := y }).symm
      _ = exec i s := exec_clearStrobes i s

/-! ## `OVF` -/

/-- A delivered bit sets `OVF` exactly when 40 are stored, and then leaves `FRAME` alone (R23, R69). -/
theorem deliverBit_ovf {s : State} (hle : s.bitcnt.toNat ≤ 40) (hovf : s.ovf = false) (b : Bool) :
    ((s.deliverBit b).ovf = true ↔ s.bitcnt.toNat = 40) ∧
      ((s.deliverBit b).ovf = true → (s.deliverBit b).frame = s.frame) := by
  rw [State.deliverBit]
  rcases accumulate_cases b (s.strobe b) with ⟨hlt, e⟩ | ⟨hge, e⟩ <;> rw [e]
  · have : s.bitcnt.toNat ≠ 40 := Nat.ne_of_lt hlt
    simp [hovf, this]
  · have : s.bitcnt.toNat = 40 := Nat.le_antisymm hle hge
    simp [this]

/-- A delivered bit never clears `OVF`. -/
theorem deliverBit_ovf_of_ovf {s : State} (hovf : s.ovf = true) (b : Bool) :
    (s.deliverBit b).ovf = true := by
  rw [State.deliverBit]
  rcases accumulate_cases b (s.strobe b) with ⟨-, e⟩ | ⟨-, e⟩ <;> simp [e, hovf]

/-- A capture with more than 40 bits is rejected, for its length unless it timed out (R76, R86). -/
theorem judge_of_ovf {s : State} (hovf : s.ovf = true) (timeout : Bool) :
    (s.judge timeout).phase = .rejected ∧
      (82 ≤ s.evcnt.toNat → (s.judge timeout).err = .frameLengthError) := by
  have hlen : s.rightLength = false := by simp [State.rightLength, hovf]
  have hv : s.verdict timeout ≠ .none := fun h => by
    simpa [hlen] using ((verdict_eq_none_iff timeout s).1 h).1
  rw [judge_eq, if_neg hv]
  refine ⟨rfl, fun hev => ?_⟩
  rw [State.reject_err, verdict_eq, if_neg (by omega), if_pos (.inr (.inr hovf))]

/-- Settles O45: of the three kinds of clock edge one delivers a bit, one clears the block and one leaves
`OVF` alone. -/
theorem overflowIsStickyWithinACycle : Obligations.OverflowIsStickyWithinACycle := by
  refine ⟨fun s t h hst hovf => ?_, fun s t hst hovf ht => ?_, fun s timeout hp hovf => ?_,
    fun _ _ => rfl⟩
  · obtain rfl := eq_afterStep_of_step hst
    rcases afterStep_capture_cases s with ⟨-, hd, -, -, ho⟩ | ⟨hd, ts, e⟩ | ⟨hd, -, -, ho, -⟩
    · simp [hd, ho]
    · rw [e]
      simpa [hd] using deliverBit_ovf (s := s.consume.clearStrobes) h.bitCount.1 hovf s.bitNow
    · simp [hd, ho, hovf]
  · obtain rfl := eq_afterStep_of_step hst
    rcases afterStep_capture_cases s with ⟨hc, -⟩ | ⟨-, ts, e⟩ | ⟨-, -, -, ho, -⟩
    · exact hc
    · have := deliverBit_ovf_of_ovf (s := s.consume.clearStrobes) hovf s.bitNow
      simp [e, this] at ht
    · simp [ho, hovf] at ht
  · refine ⟨by simp [State.rightLength, hovf], s.clearStrobes.judge timeout, ?_,
      judge_of_ovf (s := s.clearStrobes) hovf timeout⟩
    rw [exec_eq, afterCommand, if_pos hp]

/-! ## The ports and reset -/

/-- Outside `Validated` no Reading is shown (R33 items 2 and 3). -/
theorem State.Inv.reading_eq_zero {s : State} (h : s.Inv) (hp : s.phase ≠ .validated) :
    s.hum = 0 ∧ s.temp = 0 := by
  cases hs : s.phase with
  | idle => exact (h.beforeVerdict (.inl hs)).2
  | capturing => exact (h.beforeVerdict (.inr hs)).2
  | validated => exact absurd hs hp
  | rejected => exact ⟨(h.rejected.2 hs).1, (h.rejected.2 hs).2.1⟩

theorem State.outputs_valid_iff (s : State) : s.outputs.valid = true ↔ s.phase = .validated := by
  simp [State.outputs]

/-- Settles O48: the ports are read off the registers, and a Reading is there only in `Validated`. -/
theorem outputPortsFollowTheRegisters : Obligations.OutputPortsFollowTheRegisters := by
  refine ⟨fun s h => ⟨rfl, rfl, ?_, s.outputs_valid_iff, rfl, rfl, fun hv => ?_, rfl, rfl⟩,
    by decide, by decide, fun _ _ _ _ _ _ => rfl⟩
  · simp [State.outputs, State.done]
  · have hp : s.phase ≠ .validated := fun hp => by
      simp [s.outputs_valid_iff.2 hp] at hv
    exact h.reading_eq_zero hp

/-- Clearing gives the values of reset, for the block's own parameters and driver (R31, R61). -/
theorem State.clearRegisters_eq_reset (s : State) :
    s.clearRegisters = { State.reset with cfg := s.cfg, inputs := s.inputs } := rfl

/-- Settles O9: reset, `CLEAR` and `START` all clear every register, and `rst` decides before `cmd`. -/
theorem resetStepZeroesEveryRegister : Obligations.ResetStepZeroesEveryRegister := by
  refine ⟨fun s w rest hs => ?_, fun s w rest hs => ?_, fun s => ?_, fun s => ?_, by decide,
    fun _ _ => rfl⟩
  · rw [step, State.sample_of_inputs hs, if_pos rfl, State.consume_of_inputs hs,
      State.clearRegisters_eq_reset]
  · rw [step, State.sample_of_inputs hs, if_neg Bool.false_ne_true, State.consume_of_inputs hs]
  · rw [exec_eq, afterCommand, State.clearRegisters_eq_reset]
  · exact ⟨s.openCycle, exec_eq .start s, rfl, rfl⟩

end Sys2Proof.Machine
end

section
/-! Proofs of the family `20_memory.md`: the frame array is written once and in stream order (R36),
its bytes are the source's packed bits (R35), and its accesses are big-endian (R37). -/

namespace Sys2Proof.Machine

/-! ## Each frame bit is written once, in stream order -/

/-- Every position not yet filled holds the 0 of the last clear (R33 item 6, R36). -/
theorem State.Inv.frameBit_eq_false {s : State} (h : s.Inv) {k : Nat} (hk : k < 40)
    (hfill : s.bitcnt.toNat ≤ k) : frameBit s.frame k = false :=
  (nothingBelowFill_iff s).1 h.belowFill (by omega) (39 - k) (by omega)

/-- Writing the bit a position already holds changes nothing. -/
theorem frameBitWrite_frameBit (f : Frame) {k : Nat} (hk : k < 40) :
    frameBitWrite f k (frameBit f k) = f := by
  refine frame_ext fun j hj => ?_
  rw [frameBit_frameBitWrite _ _ _ _ hk hj]
  split
  · next h => rw [h]
  · rfl

/-- A clock edge that clears the block leaves an empty frame (R60, R61, R99). -/
theorem afterStep_frame_of_clears {s : State}
    (h : s.commandNow = none ∨ s.commandNow = some .start ∨ s.commandNow = some .clear) :
    (afterStep s).frame = 0 := by
  rcases afterStep_cases s with ⟨-, e⟩ | ⟨i, hi, e⟩ <;> rw [e]
  · rfl
  · rcases h with h | h | h <;> cases hi.symm.trans h <;> rfl

/-- A delivered bit that changes the frame is a 1 stored at position `BITCNT` (R36, R69). -/
theorem deliverBit_of_frame_ne {s : State} (h : s.Inv) {b : Bool}
    (hne : (s.deliverBit b).frame ≠ s.frame) :
    s.bitcnt.toNat < 40 ∧
      (s.deliverBit b).frame = frameBitWrite s.frame s.bitcnt.toNat true ∧
      (s.deliverBit b).bitcnt.toNat = s.bitcnt.toNat + 1 := by
  rw [State.deliverBit] at hne ⊢
  rcases accumulate_cases b (s.strobe b) with ⟨hlt, e⟩ | ⟨-, e⟩ <;> rw [e] at hne ⊢
  · have hzero : frameBit s.frame s.bitcnt.toNat = false := h.frameBit_eq_false hlt le_rfl
    cases b with
    | true => exact ⟨hlt, rfl, bitcnt_succ_toNat hlt⟩
    | false => exact absurd (hzero ▸ frameBitWrite_frameBit s.frame hlt) hne
  · exact absurd rfl hne

/-- Settles O26: of the three kinds of clock edge one empties the frame, one leaves it alone, and
the one that delivers a bit can change it only by a 1 over the 0 at `BITCNT`. -/
theorem frameBitsAreWrittenOnceInOrder : Obligations.FrameBitsAreWrittenOnceInOrder := by
  refine ⟨fun f k b hk => ⟨?_, fun i hi hne => ?_⟩,
    fun s h k hk hfill => h.frameBit_eq_false hk hfill, fun s t h hst hne hnz => ?_⟩
  · rw [getLsbD_frameBitWrite f k _ b hk (by omega), if_pos rfl]
  · rw [getLsbD_frameBitWrite f k i b hk hi, if_neg hne]
  · obtain rfl := eq_afterStep_of_step hst
    rcases afterStep_capture_cases s with ⟨hclear, -⟩ | ⟨hd, ts, e⟩ | ⟨-, -, -, -, hkept⟩
    · exact absurd (afterStep_frame_of_clears hclear) hnz
    · rw [e] at hne ⊢
      exact ⟨hd, deliverBit_of_frame_ne h.consume.clearStrobes hne⟩
    · exact absurd hkept hne

/-! ## Numbers as their digits, the heaviest first -/

/-- The low `n` digits of a number in base `b`, the heaviest first, make up its residue modulo
`b^n`. -/
theorem sum_digits_eq_mod_pow (b x n : Nat) :
    ((List.range n).map (fun i => x / b ^ (n - 1 - i) % b * b ^ (n - 1 - i))).sum = x % b ^ n := by
  induction n with
  | zero => simp [Nat.mod_one]
  | succ n ih =>
    have hshift : ∀ i, n + 1 - 1 - i.succ = n - 1 - i := by omega
    rw [List.range_succ_eq_map, List.map_cons, List.map_map, List.sum_cons, Nat.mod_pow_succ]
    simp only [Function.comp_def, hshift, ih]
    rw [Nat.add_sub_cancel, Nat.sub_zero, Nat.mul_comm, Nat.add_comm]

/-! ## The frame's bytes are the source's packed bits -/

/-- The number eight bits of a stream stand for, from position `8j` on, the first bit the
heaviest (R35). -/
def streamByte (bits : List Bool) (j : Nat) : Nat :=
  ((List.range 8).map (fun i => (bits.getD (8 * j + i) false).toNat * 2 ^ (7 - i))).sum

/-- Eight bits pack into one byte: two nibbles, the first one high (R35). -/
theorem packedBytes_cons (b0 b1 b2 b3 b4 b5 b6 b7 : Bool) (rest : List Bool) :
    packedBytes (b0 :: b1 :: b2 :: b3 :: b4 :: b5 :: b6 :: b7 :: rest) =
      streamByte (b0 :: b1 :: b2 :: b3 :: b4 :: b5 :: b6 :: b7 :: rest) 0 :: packedBytes rest := by
  refine congrArg (· :: packedBytes rest) ?_
  calc (b0.toNat * 8 + b1.toNat * 4 + b2.toNat * 2 + b3.toNat) * 16 +
        (b4.toNat * 8 + b5.toNat * 4 + b6.toNat * 2 + b7.toNat)
    _ = b0.toNat * 2 ^ 7 + (b1.toNat * 2 ^ 6 + (b2.toNat * 2 ^ 5 + (b3.toNat * 2 ^ 4 +
        (b4.toNat * 2 ^ 3 + (b5.toNat * 2 ^ 2 +
        (b6.toNat * 2 ^ 1 + (b7.toNat * 2 ^ 0 + 0))))))) := by
      ring
    _ = streamByte (b0 :: b1 :: b2 :: b3 :: b4 :: b5 :: b6 :: b7 :: rest) 0 := rfl

/-- The later bytes of a stream are the bytes of what follows its first eight bits. -/
theorem streamByte_comp_succ (bits : List Bool) :
    streamByte bits ∘ Nat.succ = streamByte (bits.drop 8) := by
  funext j
  have hpos : ∀ i, 8 * j.succ + i = 8 + (8 * j + i) := by omega
  simp only [Function.comp_apply, streamByte, List.getD_eq_getElem?_getD, List.getElem?_drop, hpos]

/-- The packing of a stream of `n` bytes, byte by byte (R35). -/
theorem packedBytes_eq_map_streamByte : ∀ (n : Nat) (bits : List Bool), bits.length = 8 * n →
    packedBytes bits = (List.range n).map (streamByte bits)
  | 0, [], _ => rfl
  | n + 1, b0 :: b1 :: b2 :: b3 :: b4 :: b5 :: b6 :: b7 :: rest, h => by
    have hrest : rest.length = 8 * n := by simp only [List.length_cons] at h; omega
    rw [packedBytes_cons, packedBytes_eq_map_streamByte n rest hrest, List.range_succ_eq_map,
      List.map_cons, List.map_map, streamByte_comp_succ]
    simp only [List.drop_succ_cons, List.drop_zero]

/-- A bit of a byte of the frame is the bit at its stream position (R34). -/
theorem getLsbD_frameByte (f : Frame) {j i : Nat} (hj : j < 5) (hi : i < 8) :
    (frameByte f j).getLsbD (7 - i) = frameBit f (8 * j + i) := by
  have hpos : 32 - 8 * j + (7 - i) = 39 - (8 * j + i) := by omega
  simp [frameByte, frameBit, hpos, show 7 - i < 8 by omega]

/-- A byte of a frame that holds a stream is the stream's byte (R35). -/
theorem frameByte_toNat_eq_streamByte {f : Frame} {bits : List Bool}
    (h : ∀ k < 40, frameBit f k = bits.getD k false) {j : Nat} (hj : j < 5) :
    (frameByte f j).toNat = streamByte bits j := by
  rw [← Nat.mod_eq_of_lt (frameByte f j).isLt, ← sum_digits_eq_mod_pow, streamByte]
  refine congrArg List.sum (List.map_congr_left fun i hi => ?_)
  have hi : i < 8 := List.mem_range.1 hi
  rw [← h (8 * j + i) (by omega), ← getLsbD_frameByte f hj hi, ← BitVec.testBit_toNat,
    Nat.toNat_testBit]

/-- Settles O27: both the packing and the frame give the stream's bytes. -/
theorem frameBytesAreThePackedBits : Obligations.FrameBytesAreThePackedBits := by
  intro f bits hlen h
  refine ⟨?_, fun j hj => frameByte_toNat_eq_streamByte h hj⟩
  rw [packedBytes_eq_map_streamByte 5 bits hlen]
  exact List.map_congr_left fun j hj =>
    (frameByte_toNat_eq_streamByte h (List.mem_range.1 hj)).symm

/-! ## `MemRead` and `MemWrite` are big-endian -/

/-- The last byte of an access is its lightest: byte `addr + i` is the base-256 digit `n - 1 - i` of
the accessed slice (R37). -/
theorem frameByte_toNat_eq_digit (f : Frame) {addr n i : Nat} (hn : addr + n ≤ 5) (hi : i < n) :
    (frameByte f (addr + i)).toNat =
      f.toNat / 2 ^ (40 - 8 * (addr + n)) / 256 ^ (n - 1 - i) % 256 := by
  have hpos : 32 - 8 * (addr + i) = 40 - 8 * (addr + n) + 8 * (n - 1 - i) := by omega
  rw [frameByte_toNat, hpos, Nat.pow_add, Nat.pow_mul, Nat.div_div_eq_div_mul]

/-- `MemRead` as the big-endian number of its bytes (R37). -/
theorem memRead_toNat_eq_sum (f : Frame) {addr n : Nat} (hn : addr + n ≤ 5) :
    (memRead f addr n).toNat =
      ((List.range n).map (fun i => (frameByte f (addr + i)).toNat * 256 ^ (n - 1 - i))).sum := by
  rw [memRead_toNat, Nat.pow_mul, ← sum_digits_eq_mod_pow]
  refine congrArg List.sum (List.map_congr_left fun i hi => ?_)
  rw [frameByte_toNat_eq_digit f hn (List.mem_range.1 hi)]

/-- Everything `MemWrite` does to a bit of `FRAME`: the bits of its slice come from the value, the
others stay (R37). -/
theorem getLsbD_memWrite (f : Frame) {addr n i : Nat} (v : BitVec (8 * n)) (hi : i < 40) :
    (memWrite f addr n v).getLsbD i =
      if 40 - 8 * (addr + n) ≤ i ∧ i < 40 - 8 * (addr + n) + 8 * n
      then v.getLsbD (i - (40 - 8 * (addr + n))) else f.getLsbD i := by
  simp only [memWrite, BitVec.getLsbD_or, BitVec.getLsbD_and, BitVec.getLsbD_not,
    BitVec.getLsbD_shiftLeft, BitVec.getLsbD_setWidth, BitVec.getLsbD_allOnes]
  generalize 40 - 8 * (addr + n) = lo
  have hlow : i - lo < 40 := by omega
  by_cases hge : lo ≤ i
  · by_cases hlt : i - lo < 8 * n
    · simp [hi, hlow, hlt, hge, show ¬ i < lo by omega, show i < lo + 8 * n by omega]
    · simp [hi, hlow, hlt, show ¬ i < lo by omega, show ¬ i < lo + 8 * n by omega,
        BitVec.getLsbD_of_ge v (i - lo) (by omega)]
  · simp [hi, hge, show i < lo by omega]

/-- Read after write (R37). -/
theorem memRead_memWrite (f : Frame) {addr n : Nat} (hn : addr + n ≤ 5) (v : BitVec (8 * n)) :
    memRead (memWrite f addr n v) addr n = v := by
  refine BitVec.eq_of_getLsbD_eq fun i hi => ?_
  rw [memRead, BitVec.getLsbD_extractLsb', getLsbD_memWrite f v (by omega), if_pos (by omega),
    Nat.add_sub_cancel_left, decide_eq_true hi, Bool.true_and]

/-- A write leaves every byte outside its slice as it was (R37). -/
theorem frameByte_memWrite_of_outside (f : Frame) {addr n j : Nat} (hn : addr + n ≤ 5) (hj : j < 5)
    (hout : j < addr ∨ addr + n ≤ j) (v : BitVec (8 * n)) :
    frameByte (memWrite f addr n v) j = frameByte f j := by
  refine BitVec.eq_of_getLsbD_eq fun i hi => ?_
  rw [frameByte, frameByte, BitVec.getLsbD_extractLsb', BitVec.getLsbD_extractLsb',
    getLsbD_memWrite f v (by omega), if_neg (by omega)]

/-- Settles O28: reading as a sum of bytes and as a slice, and a write seen by a read and by the
bytes around it. -/
theorem memReadIsBigEndian : Obligations.MemReadIsBigEndian := by
  intro f addr n haddr hpos hle
  have hn : addr + n ≤ 5 := by omega
  exact ⟨memRead_toNat_eq_sum f hn, memRead_toNat f addr n, fun v =>
    ⟨memRead_memWrite f hn v, fun _ hj hout => frameByte_memWrite_of_outside f hn hj hout v⟩⟩

end Sys2Proof.Machine
end

section
/-! Proofs of the family `30_encoding.md`: a word decodes to the command its slices name (R51), its
reserved fields are ignored (R53), and pseudo-commands are their expansions (R56). -/

namespace Sys2Proof

/-! ## The fields of a command -/

/-- The opcode of a command (R47). -/
def Instr.opcode : Instr → Nat
  | .nop => 0
  | .start => 1
  | .edge _ _ => 2
  | .finish _ => 3
  | .clear => 4
  | .rsvd5 => 5
  | .rsvd6 => 6
  | .rsvd7 => 7

/-- The `F` bit of a command, 0 where `F` is reserved (R48, R53). -/
def Instr.flag : Instr → Bool
  | .edge dir _ => dir.toBit
  | .finish timeout => timeout
  | .nop | .start | .clear | .rsvd5 | .rsvd6 | .rsvd7 => false

/-- The `TS` field of a command, 0 where `TS` is reserved (R49, R53). -/
def Instr.tsNat : Instr → Nat
  | .edge _ ts => ts.toNat
  | .nop | .start | .finish _ | .clear | .rsvd5 | .rsvd6 | .rsvd7 => 0

theorem Instr.opcode_lt (i : Instr) : i.opcode < 8 := by
  cases i <;> simp [Instr.opcode]

/-- `TS` is reserved in every command but `EDGE` (R53). -/
theorem Instr.tsNat_eq_zero {i : Instr} (h : i.opcode ≠ 2) : i.tsNat = 0 := by
  cases i with
  | edge dir ts => exact absurd rfl h
  | _ => rfl

/-- `F` is reserved in every command but `EDGE` and `FINISH` (R53). -/
theorem Instr.flag_eq_false {i : Instr} (h2 : i.opcode ≠ 2) (h3 : i.opcode ≠ 3) :
    i.flag = false := by
  cases i with
  | edge dir ts => exact absurd rfl h2
  | finish timeout => exact absurd rfl h3
  | _ => rfl

theorem Instr.tsNat_lt_of_wellFormed {tsw : Nat} {i : Instr} (h : i.wellFormed tsw = true) :
    i.tsNat < 2 ^ tsw := by
  cases i with
  | edge dir ts => exact of_decide_eq_true h
  | _ => exact Nat.two_pow_pos tsw

theorem encode_eq_packWord (tsw : Nat) (i : Instr) :
    encode tsw i = packWord tsw i.opcode i.flag i.tsNat := by
  cases i <;> rfl

/-- The canonical word holds the command's fields, the reserved ones 0. -/
theorem fields_encode {tsw : Nat} {i : Instr} (hw : tsw ≤ 64) (h : i.wellFormed tsw = true) :
    opField tsw (encode tsw i) = i.opcode ∧ flagField tsw (encode tsw i) = i.flag ∧
      wordField (encode tsw i) 0 tsw = i.tsNat := by
  rw [encode_eq_packWord]
  exact fields_packWord i.flag hw i.opcode_lt (Instr.tsNat_lt_of_wellFormed h)

@[simp] theorem Dir.ofBit_toBit (d : Dir) : Dir.ofBit d.toBit = d := by
  cases d <;> rfl

/-- Decoding gives back every command that has an encoding. -/
theorem decode_encode {tsw : Nat} {i : Instr} (hw : tsw ≤ 64) (h : i.wellFormed tsw = true) :
    decode tsw (encode tsw i) = i := by
  obtain ⟨hop, hflag, hts⟩ := fields_encode hw h
  rw [decode, tsField, hop, hflag, hts]
  cases i with
  | edge dir ts => simp [Instr.opcode, Instr.flag, Instr.tsNat]
  | _ => rfl

theorem opField_lt (tsw : Nat) (w : CmdWord) : opField tsw w < 8 := wordField_lt w (tsw + 1) 3

/-- The three `OP` bits select the command (R51). -/
theorem opcode_decode (tsw : Nat) (w : CmdWord) : (decode tsw w).opcode = opField tsw w := by
  have hlt := opField_lt tsw w
  rw [decode]
  generalize opField tsw w = op at hlt ⊢
  interval_cases op <;> rfl

/-! ## The fields of a word as bit slices -/

theorem opField_eq_extractLsb' (tsw : Nat) (w : CmdWord) :
    opField tsw w = (w.extractLsb' (tsw + 1) 3).toNat := by
  rw [opField, wordField, BitVec.extractLsb'_toNat, Nat.shiftRight_eq_div_pow]

theorem flagField_eq_getLsbD (tsw : Nat) (w : CmdWord) : flagField tsw w = w.getLsbD tsw := by
  rw [flagField, wordField, pow_one, ← BitVec.testBit_toNat, Nat.testBit_eq_decide_div_mod_eq]
  rfl

theorem tsField_eq_extractLsb' (tsw : Nat) (w : CmdWord) :
    tsField tsw w = (w.extractLsb' 0 tsw).setWidth 64 := by
  refine BitVec.eq_of_toNat_eq ?_
  rw [tsField, wordField, BitVec.toNat_ofNat, BitVec.toNat_setWidth, BitVec.extractLsb'_toNat,
    Nat.shiftRight_eq_div_pow]

theorem Dir.ofBit_eq_ite (b : Bool) : Dir.ofBit b = if b then .rising else .falling := by
  cases b <;> rfl

/-! ## The opcode table -/

/-- Masking keeps a slice of a number in its place and makes every other bit 0. -/
theorem and_mask_eq_slice (n lo len : Nat) :
    n &&& (2 ^ len - 1) <<< lo = (n / 2 ^ lo % 2 ^ len) <<< lo := by
  refine Nat.eq_of_testBit_eq fun i => ?_
  by_cases hi : lo ≤ i <;>
    simp [hi, Nat.testBit_shiftLeft, Nat.testBit_div_two_pow, Bool.and_comm]

/-- Every mask of the table is the three `OP` bits at `TSW = 32` (R51). -/
theorem opcodeTable_mask : ∀ row ∈ opcodeTable, row.mask = 0xE00000000 := by decide

/-- A row of the table is named after the commands whose opcode its pattern holds (R47). -/
theorem mnemonic_eq_row_iff (i : Instr) :
    ∀ row ∈ opcodeTable, i.mnemonic = row.mnemonic ↔ row.pattern.toNat = i.opcode <<< 33 := by
  cases i <;> simp only [Instr.mnemonic, Instr.opcode] <;> decide

theorem and_opMask_toNat (w : BitVec 36) :
    (w &&& 0xE00000000).toNat = opField 32 (w.setWidth 68) <<< 33 := by
  rw [BitVec.toNat_and, opField, wordField, BitVec.toNat_setWidth_of_le (by decide)]
  exact and_mask_eq_slice w.toNat 33 3

/-- A row's mask and pattern hold exactly for the words of its command (R51). -/
theorem and_mask_eq_pattern_iff {row : OpcodeRow} (hrow : row ∈ opcodeTable) (w : BitVec 36) :
    w &&& row.mask = row.pattern ↔ (decode 32 (w.setWidth 68)).mnemonic = row.mnemonic := by
  rw [mnemonic_eq_row_iff _ row hrow, opcode_decode, opcodeTable_mask row hrow,
    ← BitVec.toNat_inj, and_opMask_toNat, eq_comm]

/-- Settles O3: the fields the decoder reads are the bit slices, and the table's rows are told apart
by the opcode. -/
theorem decodingIsTotalOnOpField : Obligations.DecodingIsTotalOnOpField := by
  refine ⟨fun tsw w _ _ => ?_, fun row hrow =>
    ⟨opcodeTable_mask row hrow, and_mask_eq_pattern_iff hrow⟩⟩
  simp only [decode, opField_eq_extractLsb', flagField_eq_getLsbD, tsField_eq_extractLsb',
    Dir.ofBit_eq_ite]
  refine ⟨?_, ?_, ?_, ?_, ?_, ?_, ?_, ?_⟩ <;> (intro hop; rw [hop]; rfl)

end Sys2Proof

namespace Sys2Proof.Machine

/-! ## Words of the same command -/

/-- The canonical word of a decoded command decodes to the same command (R51, R53). -/
theorem decode_encode_decode {tsw : Nat} (hw : tsw ≤ 64) (w : CmdWord) :
    decode tsw (encode tsw (decode tsw w)) = decode tsw w :=
  decode_encode hw (decode_wellFormed tsw w)

/-- A clock edge with `rst = 0` executes the command its word decodes to (R58). -/
theorem step_commandSample (s : State) (w : CmdWord) (rest : List PortSample) :
    step { s with inputs := commandSample w :: rest } =
      exec (decode s.cfg.tsw w) { s with inputs := rest } := rfl

/-- Settles O4: a clock edge sees of a word only the command it decodes to, and the canonical word
holds that command's own fields. -/
theorem reservedFieldsAreIgnored : Obligations.ReservedFieldsAreIgnored := by
  intro s w rest ⟨_, hw, _⟩
  obtain ⟨hop, hflag, hts⟩ := fields_encode hw (decode_wellFormed s.cfg.tsw w)
  dsimp only
  rw [← opcode_decode s.cfg.tsw w]
  refine ⟨?_, hop, fun h2 => ?_, fun h2 h3 => ?_⟩
  · rw [step_commandSample, step_commandSample, decode_encode_decode hw]
  · rw [hts, Instr.tsNat_eq_zero h2]
  · rw [hflag, Instr.flag_eq_false h2 h3]

/-! ## Pseudo-commands -/

/-- The samples of every line but `RESET` are the canonical words of its commands (R55, R56). -/
theorem TraceLine.samples_of_ne_reset (tsw : Nat) {l : TraceLine} (h : l ≠ .reset) :
    l.samples tsw = l.commands.map fun i => commandSample (encode tsw i) := by
  cases l with
  | reset => exact absurd rfl h
  | _ => rfl

/-- Settles O6: a line is put on the ports through its commands, whose words decode back. -/
theorem pseudoCommandsExpandToCommands : Obligations.PseudoCommandsExpandToCommands := by
  refine ⟨fun _ _ => ⟨rfl, rfl⟩, fun _ => ⟨rfl, rfl⟩, fun tsw n => ?_,
    fun tsw l _ hw hl hwf => ?_⟩
  · simp [TraceLine.samples, TraceLine.commands]
  · rw [TraceLine.samples_of_ne_reset tsw hl, List.map_map]
    exact List.map_congr_left fun i hi => congrArg (Prod.mk false) (decode_encode hw (hwf i hi))

end Sys2Proof.Machine
end

section
/-! Proofs of the family `40_cycle_control.md`: `NOP`, `START`, `CLEAR` and the reserved opcodes
(R59 to R62), and the phase machine (R63). -/

namespace Sys2Proof

/-! ## The words of the commands without operands -/

/-- The opcode alone names a command other than `EDGE` and `FINISH` (R51, R53). -/
theorem decode_eq_of_opField {tsw : Nat} {w : CmdWord} {i : Instr} (h : opField tsw w = i.opcode)
    (h2 : i.opcode ≠ 2) (h3 : i.opcode ≠ 3) : decode tsw w = i := by
  rw [decode, h]
  cases i with
  | edge dir ts => exact absurd rfl h2
  | finish timeout => exact absurd rfl h3
  | _ => rfl

/-- At `TSW = 32` what stands above the low 33 bits is `OP` (R46). -/
theorem opField_ofNat {op x : Nat} (hop : op < 8) (hx : x < 2 ^ 33) :
    opField 32 (BitVec.ofNat 68 (op * 2 ^ 33 + x)) = op := by
  rw [opField, wordField, BitVec.toNat_ofNat]
  omega

/-- At `TSW = 32` a command without operands decodes from its opcode, whatever stands below it
(R53). -/
theorem decode_opcodeWord (i : Instr) {x : Nat} (hx : x < 2 ^ 33) (h2 : i.opcode ≠ 2)
    (h3 : i.opcode ≠ 3) : decode 32 (BitVec.ofNat 68 (i.opcode * 2 ^ 33 + x)) = i :=
  decode_eq_of_opField (opField_ofNat i.opcode_lt hx) h2 h3

end Sys2Proof

namespace Sys2Proof.Machine

/-! ## `NOP` and the reserved opcodes -/

/-- A clock edge cannot tell whether the strobes were ended before it (R24, R58). -/
theorem step_clearStrobes (s : State) : step s.clearStrobes = step s := by
  cases hr : s.sample.rst
  · calc step s.clearStrobes
      _ = exec (decode s.cfg.tsw s.sample.cmd) s.consume.clearStrobes :=
        if_neg (ne_true_of_eq_false hr)
      _ = exec (decode s.cfg.tsw s.sample.cmd) s.consume := exec_clearStrobes _ _
      _ = step s := (if_neg (ne_true_of_eq_false hr)).symm
  · exact (if_pos hr).trans (if_pos hr).symm

/-- A run of one clock edge is that edge. -/
theorem runSteps_one (s : State) : runSteps 1 s = step s := by
  rw [runSteps, core_run_succ, step_eq]
  rfl

/-- A `NOP` word on the port ends the strobes and is taken off the port (R59). -/
theorem afterStep_nopSample {s : State} {w : CmdWord} (hw : decode s.cfg.tsw w = .nop)
    (xs : List PortSample) :
    afterStep (s.withInputs (commandSample w :: xs)) = s.clearStrobes.withInputs xs := by
  rw [afterStep_withInputs, if_neg (by simp [commandSample]), commandSample, hw]
  rfl

/-- Any number of `NOP` words before a clock edge leaves the state after it as it would have been
without them (R59). -/
theorem runSteps_nops (s : State) (nops : List CmdWord) (x : PortSample) (rest : List PortSample)
    (h : ∀ w ∈ nops, decode s.cfg.tsw w = .nop) :
    runSteps (nops.length + 1) (s.withInputs (nops.map commandSample ++ x :: rest)) =
      step (s.withInputs (x :: rest)) := by
  induction nops generalizing s with
  | nil => exact runSteps_one _
  | cons w ws ih =>
    obtain ⟨hw, hws⟩ := List.forall_mem_cons.1 h
    calc runSteps (ws.length + 2)
          (s.withInputs (commandSample w :: (ws.map commandSample ++ x :: rest)))
      _ = runSteps (ws.length + 1)
            (s.clearStrobes.withInputs (ws.map commandSample ++ x :: rest)) := by
          rw [runSteps, core_run_succ, afterStep_nopSample hw, runSteps]
      _ = step (s.withInputs (x :: rest)).clearStrobes := ih s.clearStrobes hws
      _ = step (s.withInputs (x :: rest)) := step_clearStrobes _

/-- Settles O13: `NOP` clears the strobes, which no clock edge reads, by induction on the `NOP`
words. -/
theorem nopClearsStrobesAndIsOtherwiseInvisible :
    Obligations.NopClearsStrobesAndIsOtherwiseInvisible :=
  ⟨fun x hx => Nat.zero_add x ▸ decode_opcodeWord .nop hx (by decide) (by decide),
    exec_eq .nop, runSteps_nops⟩

/-- Settles O14: a reserved opcode decodes whatever stands below it, and clears the strobes. -/
theorem reservedOpcodesActAsNop : Obligations.ReservedOpcodesActAsNop :=
  ⟨fun _ hx =>
    ⟨decode_opcodeWord .rsvd5 hx (by decide) (by decide),
      decode_opcodeWord .rsvd6 hx (by decide) (by decide),
      decode_opcodeWord .rsvd7 hx (by decide) (by decide)⟩,
    fun s => ⟨exec_eq .rsvd5 s, exec_eq .rsvd6 s, exec_eq .rsvd7 s⟩⟩

/-! ## `START` and `CLEAR` -/

/-- A capture of fewer than 82 events is rejected, whatever the flag (R75, R76). -/
theorem judge_phase_of_few_events {s : State} (h : s.evcnt.toNat < 82) (timeout : Bool) :
    (s.judge timeout).phase = .rejected := by
  have hv : s.verdict timeout ≠ .none := fun hv => by
    have hlen := (rightLength_iff s).1 ((verdict_eq_none_iff timeout s).1 hv).1
    omega
  rw [judge_eq, if_neg hv, State.reject_phase]

/-- Settles O15: `START` opens a capture that has counted no event. -/
theorem startOpensAnEmptyCapture : Obligations.StartOpensAnEmptyCapture := by
  refine ⟨fun _ hx => decode_opcodeWord .start hx (by decide) (by decide),
    fun s => ⟨s.openCycle, rfl, exec_eq .start s, fun timeout =>
      ⟨s.openCycle.clearStrobes.judge timeout, ?_, ?_⟩⟩⟩
  · rw [exec_eq, afterCommand, if_pos s.openCycle_phase]
  · exact judge_phase_of_few_events (by simp) timeout

/-- Settles O16: `CLEAR` clears the registers to their reset values, which in `Idle` they hold
already (R33 item 1). -/
theorem clearReturnsToTheResetState : Obligations.ClearReturnsToTheResetState := by
  refine ⟨fun _ hx => decode_opcodeWord .clear hx (by decide) (by decide),
    exec_eq .clear, fun s h hp => ?_⟩
  rw [exec_eq, afterCommand, h.idle hp]

/-! ## The phase machine -/

/-- The phase after a command is the table's, its verdict entry one of the two verdicts (R63). -/
theorem afterCommand_phase (i : Instr) (s : State) :
    ∃ v, (v = Phase.validated ∨ v = .rejected) ∧
      (afterCommand i s).phase = phaseTable v i s.phase := by
  cases i with
  | edge dir ts =>
    refine ⟨.validated, .inl rfl, ?_⟩
    obtain ⟨-, -, hphase, -⟩ := captureEdge_kept dir ts s.clearStrobes
    rw [afterCommand]
    split
    · exact hphase
    · rfl
  | finish timeout =>
    by_cases hp : s.phase = .capturing
    · refine ⟨(s.clearStrobes.judge timeout).phase,
        (judge_phase timeout s.clearStrobes).imp_right And.left, ?_⟩
      rw [afterCommand, if_pos hp, hp]
      rfl
    · refine ⟨.validated, .inl rfl, ?_⟩
      rw [afterCommand, if_neg hp, State.clearStrobes_phase]
      cases hs : s.phase with
      | capturing => exact absurd hs hp
      | _ => rfl
  | _ => exact ⟨.validated, .inl rfl, rfl⟩

/-- What a clock edge does to `PHASE` (R63): it clears the block and leaves no finished phase, or ends
an open capture in a verdict, or keeps the phase. -/
theorem afterStep_phase_cases (s : State) :
    ((s.commandNow = none ∨ s.commandNow = some .start ∨ s.commandNow = some .clear) ∧
      (afterStep s).done = false) ∨
    (s.phase = .capturing ∧ (∃ timeout, s.commandNow = some (.finish timeout)) ∧
      (afterStep s).done = true) ∨
    (afterStep s).phase = s.phase := by
  rcases afterStep_cases s with ⟨hc, e⟩ | ⟨i, hc, e⟩ <;> rw [e]
  · exact .inl ⟨.inl hc, rfl⟩
  obtain ⟨v, hv, hphase⟩ := afterCommand_phase i s.consume
  cases i with
  | start => exact .inl ⟨.inr (.inl hc), rfl⟩
  | clear => exact .inl ⟨.inr (.inr hc), rfl⟩
  | finish timeout =>
    right
    rw [State.consume_phase] at hphase
    cases hp : s.phase with
    | capturing =>
      rw [hp] at hphase
      exact .inl ⟨rfl, ⟨timeout, hc⟩, by simpa [State.done, hphase, phaseTable] using hv⟩
    | _ => exact .inr (by rw [hphase, hp]; rfl)
  | _ => exact .inr (.inr hphase)

/-- Whether a cycle is finished is read off the phase (R11). -/
theorem State.done_congr {s t : State} (h : t.phase = s.phase) : t.done = s.done := by
  rw [State.done, State.done, h]

/-- Settles O17: of the three kinds of clock edge only a `FINISH` in `Capturing` ends in a finished
phase it did not start in, and only a clearing one leaves a finished phase. -/
theorem phaseMachineFollowsItsTable : Obligations.PhaseMachineFollowsItsTable := by
  refine ⟨fun s hr => ⟨afterStep s, step_eq s, ?_⟩, fun s i => ?_, fun s t hst ht hs => ?_,
    fun s t hst hs ht => ?_⟩
  · rw [afterStep, if_pos hr, State.clearRegisters_phase]
  · obtain ⟨v, hv, hphase⟩ := afterCommand_phase i s
    exact ⟨afterCommand i s, v, hv, exec_eq i s, hphase⟩
  · obtain rfl := eq_afterStep_of_step hst
    rcases afterStep_phase_cases s with ⟨-, hd⟩ | ⟨hp, hfinish, -⟩ | hkept
    · simp [hd] at ht
    · exact ⟨hp, hfinish⟩
    · simp [State.done_congr hkept, hs] at ht
  · obtain rfl := eq_afterStep_of_step hst
    rcases afterStep_phase_cases s with ⟨hclear, -⟩ | ⟨-, -, hd⟩ | hkept
    · exact hclear
    · simp [hd] at ht
    · simp [State.done_congr hkept, hs] at ht

end Sys2Proof.Machine
end

section
/-! Proofs of the family `41_edge_to_bit.md`: `EDGE` and its threshold comparator and accumulator (R64 to
R71), and the agreement of the streaming block with the source's batch decoder (R72). -/

namespace Sys2Proof.Machine

/-! ## `EDGE` as a next state -/

theorem exec_edge_of_ne_capturing {s : State} (hp : s.phase ≠ .capturing) (d : Dir) (ts : Ts) :
    exec (.edge d ts) s = .next s.clearStrobes := by
  rw [exec_eq, afterCommand, if_neg hp]

theorem exec_edge_of_capturing {s : State} (hp : s.phase = .capturing) (d : Dir) (ts : Ts) :
    exec (.edge d ts) s = .next (s.clearStrobes.captureEdge d ts) := by
  rw [exec_eq, afterCommand, if_pos hp]

/-- Settles O18: outside `Capturing` only the strobes' default is left of `EDGE`. -/
theorem edgeOutsideCapturingActsAsNop : Obligations.EdgeOutsideCapturingActsAsNop :=
  fun _ d ts hp => exec_edge_of_ne_capturing hp d ts

/-- An event that decodes no bit is only taken and counted (R65, R66). -/
theorem captureEdge_of_not_decodes {s : State} {d : Dir} (h : ¬ (3 ≤ s.evcnt.toNat ∧ d = .falling))
    (ts : Ts) : s.captureEdge d ts = (s.setPrevTs ts).countEvent := by
  rw [← decodesBit_iff] at h
  rcases captureEdge_cases d ts s with ⟨-, e⟩ | ⟨hd, -⟩
  · exact e
  · exact absurd hd h

/-- An event that decodes a bit delivers it before it is taken and counted (R64). -/
theorem captureEdge_of_decodes {s : State} {d : Dir} (h : 3 ≤ s.evcnt.toNat ∧ d = .falling)
    (ts : Ts) : s.captureEdge d ts =
      ((s.deliverBit (classify s.cfg (elapsed s.cfg ts s.prevTs))).setPrevTs ts).countEvent := by
  rw [← decodesBit_iff] at h
  rcases captureEdge_cases d ts s with ⟨hd, -⟩ | ⟨-, e⟩
  · simp [h] at hd
  · exact e

/-- A Falling event with `EVCNT` at least 3, in `Capturing`, puts its bit on the strobes (R68, R69). -/
theorem captureEdge_strobes_of_decodes {s : State} {d : Dir}
    (h : 3 ≤ s.evcnt.toNat ∧ d = .falling) (ts : Ts) :
    (s.captureEdge d ts).bstb = true ∧
      (s.captureEdge d ts).bval = classify s.cfg (elapsed s.cfg ts s.prevTs) := by
  simp [captureEdge_of_decodes h, State.deliverBit]

theorem classify_eq_true_iff (c : Config) (e : Nat) : classify c e = true ↔ c.threshold < e := by
  rw [classify, decide_eq_true_eq]

theorem classify_eq_false_iff (c : Config) (e : Nat) : classify c e = false ↔ e ≤ c.threshold := by
  rw [classify, decide_eq_false_iff_not, Nat.not_lt]

/-! ## The elapsed time -/

/-- The borrow a legal `TSW` discards: the elapsed time is the difference of the two timestamps as
integers, modulo `2^TSW` (R67). -/
theorem elapsed_eq_emod {c : Config} (hw : c.tsw ≤ 64) (ts prev : Ts) :
    (elapsed c ts prev : Int) = ((ts.toNat : Int) - prev.toNat) % (2 ^ c.tsw : Nat) := by
  have hdvd : 2 ^ c.tsw ∣ 2 ^ 64 := pow_dvd_pow 2 hw
  have hprev : prev.toNat ≤ 2 ^ 64 := prev.isLt.le
  rw [elapsed, BitVec.toNat_sub, Nat.mod_mod_of_dvd _ hdvd, Int.natCast_mod, Nat.cast_add,
    Nat.cast_sub hprev]
  refine Int.ModEq.symm (Int.modEq_iff_dvd.2 ?_)
  rw [show ((2 ^ 64 : Nat) : Int) - prev.toNat + ts.toNat - (ts.toNat - prev.toNat) =
    ((2 ^ 64 : Nat) : Int) by ring]
  exact Int.natCast_dvd_natCast.2 hdvd

/-- A timestamp the timer has reduced modulo `2^TSW` (R49). -/
theorem toNat_ofNat_mod {w : Nat} (hw : w ≤ 64) (x : Nat) :
    (BitVec.ofNat 64 (x % 2 ^ w)).toNat = x % 2 ^ w := by
  rw [BitVec.toNat_ofNat, Nat.mod_eq_of_lt]
  exact (Nat.mod_lt x (Nat.two_pow_pos w)).trans_le (Nat.pow_le_pow_right (by omega) hw)

/-- A smaller timestamp than `PREV_TS` gives the difference with a borrow (R67). -/
theorem elapsed_of_lt {c : Config} (hw : c.tsw ≤ 64) {ts prev : Ts} (hprev : prev.toNat < 2 ^ c.tsw)
    (hlt : ts.toNat < prev.toNat) :
    elapsed c ts prev = 2 ^ c.tsw - (prev.toNat - ts.toNat) := by
  have h := elapsed_eq_emod hw ts prev
  rw [← Int.add_emod_right, Int.emod_eq_of_lt (by omega) (by omega)] at h
  omega

/-- Two instants less than a turn of the timer apart give their true interval (R67). -/
theorem elapsed_of_instants {c : Config} (hw : c.tsw ≤ 64) {first second : Nat}
    (hle : first ≤ second) (hshort : second - first < 2 ^ c.tsw) :
    elapsed c (BitVec.ofNat 64 (second % 2 ^ c.tsw)) (BitVec.ofNat 64 (first % 2 ^ c.tsw)) =
      second - first := by
  have h := elapsed_eq_emod hw (BitVec.ofNat 64 (second % 2 ^ c.tsw))
    (BitVec.ofNat 64 (first % 2 ^ c.tsw))
  rw [toNat_ofNat_mod hw, toNat_ofNat_mod hw, Int.natCast_mod, Int.natCast_mod, ← Int.sub_emod,
    Int.emod_eq_of_lt (by omega) (by omega)] at h
  omega

/-- Settles O21: every clause about `elapsed` is read off the integer difference, and `EDGE` touches
neither `PHASE` nor `ERR`. -/
theorem elapsedIsTheModularDifference : Obligations.ElapsedIsTheModularDifference := by
  intro c ⟨_, hw, _⟩
  refine ⟨elapsed_eq_emod hw, fun ts => ?_, fun _ _ => elapsed_of_lt hw,
    fun _ _ hlt => elapsed_of_instants hw hlt.le, fun s d ts => ?_⟩
  · rw [elapsed, BitVec.sub_self, BitVec.toNat_zero, Nat.zero_mod]
  · by_cases hp : s.phase = .capturing
    · obtain ⟨-, -, hphase, herr, -⟩ := captureEdge_kept d ts s.clearStrobes
      exact ⟨_, exec_edge_of_capturing hp d ts, hphase, herr, fun _ h3 hd =>
        captureEdge_strobes_of_decodes (s := s.clearStrobes) ⟨h3, hd⟩ ts⟩
    · exact ⟨_, exec_edge_of_ne_capturing hp d ts, rfl, rfl, fun h => absurd h hp⟩

/-! ## The threshold comparator and the accumulator -/

/-- A Falling event with `EVCNT` at least 3, in `Capturing`, puts its bit on the strobes. -/
theorem exec_edge_falling_strobes {s : State} (hp : s.phase = .capturing) (h3 : 3 ≤ s.evcnt.toNat)
    (ts : Ts) : ∃ t, exec (.edge .falling ts) s = .next t ∧ t.bstb = true ∧
      t.bval = classify s.cfg (elapsed s.cfg ts s.prevTs) :=
  ⟨_, exec_edge_of_capturing hp .falling ts,
    captureEdge_strobes_of_decodes (s := s.clearStrobes) ⟨h3, rfl⟩ ts⟩

/-- Settles O22: the strobed bit is the comparison `THRESHOLD < elapsed`, and the elapsed time is at
most `2^TSW - 1`. -/
theorem thresholdComparisonIsStrict : Obligations.ThresholdComparisonIsStrict := by
  refine ⟨fun s ts hp h3 => ?_, fun s t ts hp h3 h35 hst => ?_, fun s t ts hp h3 hc hst => ?_⟩ <;>
    obtain ⟨u, hu, hstb, hval⟩ := exec_edge_falling_strobes hp h3 ts
  · exact ⟨u, hu, hstb, by rw [hval, classify_eq_true_iff]⟩
  · obtain rfl := Host.Outcome.next.inj (hu.symm.trans hst)
    rw [hval, classify_eq_true_iff, classify_eq_false_iff, h35]
    omega
  · obtain rfl := Host.Outcome.next.inj (hu.symm.trans hst)
    obtain ⟨-, -, hthreshold⟩ := hc
    have hlt := elapsed_lt s.cfg ts s.prevTs
    rw [hval, classify_eq_true_iff, classify_eq_false_iff]
    omega

/-- A delivered bit while fewer than 40 are stored is stored at position `BITCNT` (R69). -/
theorem deliverBit_of_lt {s : State} (h : s.bitcnt.toNat < 40) (b : Bool) :
    s.deliverBit b = (s.strobe b).storeBit b := by
  rcases accumulate_cases b (s.strobe b) with ⟨-, e⟩ | ⟨hge, -⟩
  · exact e
  · exact absurd h (Nat.not_lt.2 hge)

/-- A delivered bit with 40 stored is dropped (R69). -/
theorem deliverBit_of_le {s : State} (h : 40 ≤ s.bitcnt.toNat) (b : Bool) :
    s.deliverBit b = (s.strobe b).setOvf := by
  rcases accumulate_cases b (s.strobe b) with ⟨hlt, -⟩ | ⟨-, e⟩
  · exact absurd h (Nat.not_le.2 hlt)
  · exact e

/-- Settles O23: the accumulator's two cases, the order of the bits in a byte, and the rejection of a
frame with more than 40 bits. -/
theorem accumulatorStoresThenDrops : Obligations.AccumulatorStoresThenDrops := by
  refine ⟨fun s ts hp h3 => ?_, fun f k hk => ?_, fun s timeout hp hovf => ?_⟩
  · obtain ⟨hstb, hval⟩ := captureEdge_strobes_of_decodes (s := s.clearStrobes) ⟨h3, rfl⟩ ts
    refine ⟨_, exec_edge_of_capturing hp .falling ts, hstb, hval, ?_⟩
    rw [captureEdge_of_decodes (s := s.clearStrobes) ⟨h3, rfl⟩]
    refine ⟨fun hlt => ?_, fun h40 => ?_⟩
    · rw [deliverBit_of_lt (s := s.clearStrobes) hlt]
      have hbit := frameBit_frameBitWrite s.frame s.bitcnt.toNat s.bitcnt.toNat
        (classify s.cfg (elapsed s.cfg ts s.prevTs)) hlt hlt
      rw [if_pos rfl] at hbit
      exact ⟨hbit, hbit, fun k hk hne => (frameBit_frameBitWrite _ _ _ _ hlt hk).trans (if_neg hne),
        bitcnt_succ_toNat hlt, rfl⟩
    · rw [deliverBit_of_le (s := s.clearStrobes) h40.ge]
      exact ⟨rfl, rfl, rfl⟩
  · rw [getLsbD_frameByte f (by omega) (by omega), Nat.div_add_mod]
  · exact ⟨_, (exec_eq _ s).trans (congrArg _ (if_pos hp)),
      (judge_of_ovf (s := s.clearStrobes) hovf timeout).1⟩

/-- Once `EVCNT` is at least 3, `EDGE` does the same whatever it is, but for the count (R70). -/
theorem captureEdge_congr_evcnt {s : State} {m n : BitVec 7} (hm : 3 ≤ m.toNat) (hn : 3 ≤ n.toNat)
    (d : Dir) (ts : Ts) :
    { State.captureEdge d ts { s with evcnt := m } with evcnt := 0 } =
      { State.captureEdge d ts { s with evcnt := n } with evcnt := 0 } := by
  by_cases hd : d = .falling
  · rw [captureEdge_of_decodes (s := { s with evcnt := m }) ⟨hm, hd⟩,
      captureEdge_of_decodes (s := { s with evcnt := n }) ⟨hn, hd⟩]
    by_cases hlt : s.bitcnt.toNat < 40
    · rw [deliverBit_of_lt (s := { s with evcnt := m }) hlt,
        deliverBit_of_lt (s := { s with evcnt := n }) hlt]
      rfl
    · rw [deliverBit_of_le (s := { s with evcnt := m }) (Nat.le_of_not_lt hlt),
        deliverBit_of_le (s := { s with evcnt := n }) (Nat.le_of_not_lt hlt)]
      rfl
  · rw [captureEdge_of_not_decodes fun h => hd h.2, captureEdge_of_not_decodes fun h => hd h.2]
    rfl

/-- Settles O24: both cases of `EDGE` end in the timestamp and the count, and `EVCNT` decides between
them only by being at least 3. -/
theorem edgeAlwaysTakesTimestampAndCounts : Obligations.EdgeAlwaysTakesTimestampAndCounts := by
  refine ⟨fun s d ts hp hts => ?_, fun s d ts n hp h3 _ => ?_⟩
  · obtain ⟨-, -, -, -, -, -, hprev, hcount⟩ := captureEdge_kept d ts s.clearStrobes
    refine ⟨_, exec_edge_of_capturing hp d ts, hprev.trans (truncTs_of_lt hts), ?_, ?_⟩ <;>
      rw [hcount, State.clearStrobes_evcnt, satInc_evcnt_toNat]
    · split <;> omega
    · omega
  · exact ⟨_, _, exec_edge_of_capturing (s := { s with evcnt := 127 }) hp d ts,
      exec_edge_of_capturing (s := { s with evcnt := n }) hp d ts,
      captureEdge_congr_evcnt (s := s.clearStrobes) (m := 127) (by decide) h3 d ts⟩

/-! ## The whole of `EDGE` -/

/-- The canonical words of `EDGE` at `TSW = 32` decode back (R55). -/
theorem decode_edgeWord (d : Dir) {t : Nat} (ht : t < 2 ^ 32) :
    decode 32 (packWord 32 2 d.toBit t) = .edge d (BitVec.ofNat 64 t) := by
  have hts : (BitVec.ofNat 64 t).toNat = t := Nat.mod_eq_of_lt (by omega)
  have hdecode := decode_encode (tsw := 32) (i := .edge d (BitVec.ofNat 64 t)) (by decide)
    (by rwa [Instr.wellFormed, hts, decide_eq_true_eq])
  rwa [encode, hts] at hdecode

/-- A `TSW`-bit timestamp goes into `PREV_TS` as it stands (R49, R70). -/
theorem State.setPrevTs_of_lt {s : State} {ts : Ts} (h : ts.toNat < 2 ^ s.cfg.tsw) :
    s.setPrevTs ts = { s with prevTs := ts } := by
  rw [State.setPrevTs, truncTs_of_lt h]

/-- The comparator on the difference of the timestamps as integers (R67, R68). -/
theorem classify_elapsed_eq {c : Config} (hw : c.tsw ≤ 64) (ts prev : Ts) :
    classify c (elapsed c ts prev) =
      decide ((c.threshold : Int) < ((ts.toNat : Int) - prev.toNat) % (2 ^ c.tsw : Nat)) := by
  rw [classify, ← elapsed_eq_emod hw, decide_eq_decide, Nat.cast_lt]

/-- Settles O19: `EDGE` decodes a bit or not, and the accumulator stores it or drops it. -/
theorem edgeFollowsItsPseudocode : Obligations.EdgeFollowsItsPseudocode := by
  refine ⟨fun t ht => ?_, fun s d ts ⟨_, hw, _⟩ hts hp => ?_,
    edgeOutsideCapturingActsAsNop⟩
  · rw [show 0x500000000 + t = 2 * 2 ^ (32 + 1) + true.toNat * 2 ^ 32 + t from rfl]
    exact ⟨decode_edgeWord .rising ht, decode_edgeWord .falling ht⟩
  dsimp only
  rw [exec_edge_of_capturing hp, ← classify_elapsed_eq hw]
  refine congrArg Host.Outcome.next ?_
  by_cases hdec : 3 ≤ s.evcnt.toNat ∧ d = .falling
  · rw [if_pos hdec, captureEdge_of_decodes (s := s.clearStrobes) hdec]
    by_cases hlt : s.bitcnt.toNat < 40
    · rw [if_pos hlt, deliverBit_of_lt (s := s.clearStrobes) hlt, State.setPrevTs_of_lt]
      · rfl
      · exact hts
    · rw [if_neg hlt, deliverBit_of_le (s := s.clearStrobes) (Nat.le_of_not_lt hlt),
        State.setPrevTs_of_lt]
      · rfl
      · exact hts
  · rw [if_neg hdec, captureEdge_of_not_decodes (s := s.clearStrobes) hdec,
      State.setPrevTs_of_lt]
    · rfl
    · exact hts

/-! ## The batch decoder, one event at a time -/

theorem filterMap_singleton {α β : Type} (f : α → Option β) (a : α) :
    [a].filterMap f = (f a).toList := by
  cases h : f a <;> simp [h]

/-- The bit the event `e` yields after the events `seen`, if any: the seen events but the first two hold
a predecessor for it, and it is Falling (R66). -/
def nextBit (c : Config) (seen : List Event) (e : Event) : Option Bool :=
  (seen.drop nSkip).getLast?.bind fun p => pairBit c (p, e)

/-- The bit that R72 writes for the index `i`, if any. -/
def bitAt (c : Config) (window : List Event) (i : Nat) : Option Bool :=
  if 3 ≤ i then window[i - 1]?.bind fun p => window[i]?.bind fun e => pairBit c (p, e) else none

theorem pairBit_eq_ite (c : Config) (p e : Event) :
    pairBit c (p, e) =
      if e.dir = .falling then some (classify c (elapsed c e.ts p.ts)) else none := by
  rw [pairBit]
  cases e.dir <;> rfl

/-- `S` as R72 writes it is the bits of its indices in order. -/
theorem indexedBits_eq_filterMap_bitAt (c : Config) (window : List Event) :
    indexedBits c window = (List.range window.length).filterMap (bitAt c window) := by
  refine List.filterMap_congr fun i _ => ?_
  rw [bitAt]
  cases window[i - 1]? with
  | none => exact (ite_self _).symm
  | some p =>
    cases window[i]? with
    | none => exact (ite_self _).symm
    | some e =>
      rw [Option.bind_some, Option.bind_some, pairBit_eq_ite]
      exact ite_and ..

/-- A later event does not change the bits of the indices before it. -/
theorem bitAt_append_of_lt (c : Config) {seen : List Event} (later : List Event) {i : Nat}
    (hi : i < seen.length) : bitAt c (seen ++ later) i = bitAt c seen i := by
  rw [bitAt, bitAt, List.getElem?_append_left hi, List.getElem?_append_left (by omega)]

theorem bitAt_length (c : Config) (seen : List Event) (e : Event) :
    bitAt c (seen ++ [e]) seen.length = nextBit c seen e := by
  rw [bitAt, nextBit, List.getLast?_drop, nSkip_eq]
  by_cases h3 : 3 ≤ seen.length
  · rw [if_pos h3, if_neg (by omega), List.getElem?_append_left (by omega),
      List.getElem?_concat_length, List.getLast?_eq_getElem?]
    rfl
  · rw [if_neg h3, if_pos (by omega)]
    rfl

/-- One more event adds its bit, if it yields one, to the sequence of R72. -/
theorem indexedBits_concat (c : Config) (seen : List Event) (e : Event) :
    indexedBits c (seen ++ [e]) = indexedBits c seen ++ (nextBit c seen e).toList := by
  rw [indexedBits_eq_filterMap_bitAt, indexedBits_eq_filterMap_bitAt, List.length_append,
    List.length_singleton, List.range_succ, List.filterMap_append]
  congr 1
  · exact List.filterMap_congr fun i hi => bitAt_append_of_lt c [e] (List.mem_range.1 hi)
  · rw [filterMap_singleton, bitAt_length]

theorem adjacentPairs_concat {α : Type} (a : α) : ∀ l : List α,
    adjacentPairs (l ++ [a]) = adjacentPairs l ++ (l.getLast?.map (·, a)).toList
  | [] => rfl
  | [_] => rfl
  | x :: y :: l => by
    have ih := adjacentPairs_concat a (y :: l)
    simp only [List.cons_append, adjacentPairs, List.getLast?_cons_cons] at ih ⊢
    rw [ih]

/-- One more event adds its bit, if it yields one, to the batch decoder's sequence. -/
theorem batchBits_concat (c : Config) (seen : List Event) (e : Event) :
    batchBits c (seen ++ [e]) = batchBits c seen ++ (nextBit c seen e).toList := by
  rw [batchBits, batchBits, nextBit]
  by_cases h : nSkip ≤ seen.length
  · rw [List.drop_append_of_le_length h, adjacentPairs_concat, List.filterMap_append]
    congr 1
    cases (seen.drop nSkip).getLast? with
    | none => rfl
    | some p => exact filterMap_singleton _ _
  · have hlen : (seen ++ [e]).length ≤ nSkip := by rw [List.length_append]; exact Nat.not_le.1 h
    rw [List.drop_eq_nil_of_le hlen, List.drop_eq_nil_of_le (Nat.le_of_not_le h)]
    rfl

/-- The sequence of R72 is the batch decoder's. -/
theorem indexedBits_eq_batchBits (c : Config) (window : List Event) :
    indexedBits c window = batchBits c window := by
  induction window using List.reverseRecOn with
  | nil => rfl
  | append_singleton seen e ih => rw [indexedBits_concat, batchBits_concat, ih]

theorem alternates_cons_cons (e e' : Event) (l : List Event) :
    alternates (e :: e' :: l) = true ↔ e.dir ≠ e'.dir ∧ alternates (e' :: l) = true := by
  simp [alternates, adjacentPairs]

/-- Alternating directions yield one bit per two events after the first, the first bit an event earlier
when the first event is Rising (R72). -/
theorem length_bits_of_alternates (c : Config) : ∀ (e : Event) (l : List Event),
    alternates (e :: l) = true →
    ((adjacentPairs (e :: l)).filterMap (pairBit c)).length =
      if e.dir = .rising then (l.length + 1) / 2 else l.length / 2
  | e, [], _ => (ite_self 0).symm
  | e, e' :: l, h => by
    obtain ⟨hne, hl⟩ := (alternates_cons_cons e e' l).1 h
    have ih := length_bits_of_alternates c e' l hl
    rw [adjacentPairs, List.filterMap_cons, pairBit_eq_ite]
    cases hd : e.dir with
    | rising =>
      have hd' : e'.dir = .falling := by cases hd' : e'.dir <;> simp [hd, hd'] at hne ⊢
      simp only [hd', reduceCtorEq, if_true, if_false, List.length_cons] at ih ⊢
      omega
    | falling =>
      have hd' : e'.dir = .rising := by cases hd' : e'.dir <;> simp [hd, hd'] at hne ⊢
      simp only [hd', reduceCtorEq, if_true, if_false, List.length_cons] at ih ⊢
      omega

/-- How long the sequence of R72 is when the directions alternate. -/
theorem length_indexedBits_of_alternates (c : Config) {window : List Event}
    (h : alternates window = true) {e : Event} (he : window[2]? = some e) :
    (indexedBits c window).length =
      if e.dir = .rising then (window.length - 2) / 2 else (window.length - 3) / 2 := by
  rw [indexedBits_eq_batchBits]
  match window, he with
  | e₀ :: e₁ :: _ :: l, rfl =>
    rw [alternates_cons_cons, alternates_cons_cons] at h
    exact length_bits_of_alternates c e l h.2.2

/-! ## What the source's packing makes of a stream of any length -/

/-- The packing takes eight bits at a time (R35). -/
theorem packedBytes_of_length_le : ∀ {bits : List Bool}, 8 ≤ bits.length →
    packedBytes bits = streamByte bits 0 :: packedBytes (bits.drop 8)
  | _ :: _ :: _ :: _ :: _ :: _ :: _ :: _ :: _, _ => packedBytes_cons ..

/-- The complete bytes of a stream, one by one (R35, R72). -/
theorem packedBytes_getElem? {j : Nat} {bits : List Bool} (h : 8 * (j + 1) ≤ bits.length) :
    (packedBytes bits)[j]? = some (streamByte bits j) := by
  induction j generalizing bits with
  | zero => rw [packedBytes_of_length_le (by omega), List.getElem?_cons_zero]
  | succ j ih =>
    have hrest : 8 * (j + 1) ≤ (bits.drop 8).length := by rw [List.length_drop]; omega
    rw [packedBytes_of_length_le (by omega), List.getElem?_cons_succ, ih hrest]
    exact congrArg some (congrFun (streamByte_comp_succ bits) j).symm

/-! ## The accumulator holds a sequence of bits -/

/-- The registers of the accumulator after the bits of a sequence: the first 40 in `FRAME`, counted in
`BITCNT`, and `OVF` for the rest (R69). -/
def State.holdsBits (bits : List Bool) (s : State) : Prop :=
  s.bitcnt.toNat = min bits.length 40 ∧ (s.ovf = true ↔ 40 < bits.length) ∧
    ∀ k < 40, frameBit s.frame k = bits.getD k false

/-- A delivered bit comes after those held (R69). -/
theorem holdsBits_deliverBit {s : State} {bits : List Bool} (h : s.holdsBits bits) (b : Bool) :
    (s.deliverBit b).holdsBits (bits ++ [b]) := by
  obtain ⟨hcount, hovf, hframe⟩ := h
  have hlen : (bits ++ [b]).length = bits.length + 1 := List.length_append
  by_cases hlt : s.bitcnt.toNat < 40
  · have hn : s.bitcnt.toNat = bits.length := by omega
    rw [deliverBit_of_lt hlt, State.holdsBits, hlen]
    refine ⟨(bitcnt_succ_toNat hlt).trans (by omega), hovf.trans (by omega), fun k hk => ?_⟩
    refine (frameBit_frameBitWrite _ _ _ _ hlt hk).trans ?_
    rw [hn, State.strobe_frame, hframe k hk]
    rcases lt_trichotomy k bits.length with hk | rfl | hk
    · rw [if_neg (by omega), List.getD_append _ _ _ _ hk]
    · simp
    · rw [if_neg (by omega), List.getD_eq_default _ _ hk.le, List.getD_eq_default _ _ (by omega)]
  · rw [deliverBit_of_le (by omega), State.holdsBits, hlen]
    refine ⟨hcount.trans (by omega), iff_of_true rfl (by omega), fun k hk => ?_⟩
    exact (hframe k hk).trans (List.getD_append _ _ _ _ (by omega)).symm

/-- The complete bytes of the bits held are the source's (R35, R72). -/
theorem packedBytes_getElem?_of_holdsBits {s : State} {bits : List Bool} (h : s.holdsBits bits)
    {j : Nat} (hj : j < min bits.length 40 / 8) :
    (packedBytes bits)[j]? = some (frameByte s.frame j).toNat := by
  obtain ⟨-, -, hframe⟩ := h
  rw [packedBytes_getElem? (by omega), frameByte_toNat_eq_streamByte hframe (by omega)]

/-! ## The block after a part of a Capture Window -/

/-- The bit the strobes carry, if any (R24). -/
def State.strobedBit (s : State) : Option Bool := if s.bstb then some s.bval else none

/-- What the registers hold in an open capture after the events `seen`, the strobes aside (R72). -/
structure State.Captured (seen : List Event) (s : State) : Prop where
  phase : s.phase = .capturing
  bits : s.holdsBits (indexedBits s.cfg seen)
  count : s.evcnt.toNat = min seen.length 127
  last : ∀ e ∈ seen.getLast?, s.prevTs = e.ts
  noReading : s.hum = 0 ∧ s.temp = 0 ∧ s.err = .none

/-- `START` opens a capture of no event (R60). -/
theorem captured_openCycle (s : State) : s.openCycle.Captured [] where
  phase := rfl
  bits := ⟨rfl, by simp [indexedBits], fun k _ => by simp [frameBit, indexedBits]⟩
  count := rfl
  last := by simp
  noReading := ⟨rfl, rfl, rfl⟩

section Captured
variable {s : State} {seen : List Event}

theorem State.Captured.consume (h : s.Captured seen) : s.consume.Captured seen :=
  ⟨h.phase, h.bits, h.count, h.last, h.noReading⟩

theorem State.Captured.clearStrobes (h : s.Captured seen) : s.clearStrobes.Captured seen :=
  ⟨h.phase, h.bits, h.count, h.last, h.noReading⟩

/-- The registers hold all the block needs to decode the next event as the batch decoder does: three
events or more were seen, and `PREV_TS` is the last one's (R65 to R68). -/
theorem State.Captured.nextBit_eq (h : s.Captured seen) (d : Dir) (ts : Ts) :
    nextBit s.cfg seen ⟨d, ts⟩ =
      if 3 ≤ s.evcnt.toNat ∧ d = .falling then some (classify s.cfg (elapsed s.cfg ts s.prevTs))
      else none := by
  have hcount := h.count
  rw [nextBit, List.getLast?_drop, nSkip_eq]
  by_cases h3 : 3 ≤ seen.length
  · have hne : seen ≠ [] := List.ne_nil_of_length_pos (by omega)
    have hlast := List.getLast?_eq_some_getLast hne
    rw [if_neg (by omega), hlast, Option.bind_some, pairBit_eq_ite, h.last _ hlast]
    simp [show 3 ≤ s.evcnt.toNat by omega]
  · rw [if_pos (by omega), if_neg fun hd => by omega]
    rfl

/-- An event puts on the strobes, at 0 before, the bit the batch decoder gives it. -/
theorem State.Captured.strobedBit_captureEdge (h : s.Captured seen) (d : Dir)
    (ts : Ts) : (s.clearStrobes.captureEdge d ts).strobedBit = nextBit s.cfg seen ⟨d, ts⟩ := by
  rw [h.nextBit_eq, State.strobedBit]
  by_cases hdec : 3 ≤ s.evcnt.toNat ∧ d = .falling
  · obtain ⟨hstb, hval⟩ := captureEdge_strobes_of_decodes (s := s.clearStrobes) hdec ts
    rw [if_pos hdec, if_pos hstb, hval]
    rfl
  · rw [if_neg hdec, captureEdge_of_not_decodes (s := s.clearStrobes) hdec]
    rfl

/-- An event of an open capture is taken as the next event of its window (R64, R70). -/
theorem State.Captured.captureEdge (h : s.Captured seen) (d : Dir) {ts : Ts}
    (hts : ts.toNat < 2 ^ s.cfg.tsw) : (s.captureEdge d ts).Captured (seen ++ [⟨d, ts⟩]) := by
  obtain ⟨hhum, htemp, hphase, herr, hcfg, -, hprev, hcount⟩ := captureEdge_kept d ts s
  obtain ⟨hh, ht, he⟩ := h.noReading
  have hn := h.count
  refine ⟨hphase.trans h.phase, ?_, ?_, ?_, hhum.trans hh, htemp.trans ht, herr.trans he⟩
  · rw [hcfg, indexedBits_concat, h.nextBit_eq]
    by_cases hdec : 3 ≤ s.evcnt.toNat ∧ d = .falling
    · rw [if_pos hdec, captureEdge_of_decodes hdec]
      exact holdsBits_deliverBit h.bits _
    · rw [if_neg hdec, captureEdge_of_not_decodes hdec, Option.toList_none, List.append_nil]
      exact h.bits
  · rw [hcount, satInc_evcnt_toNat, List.length_append, List.length_singleton]
    omega
  · simp [hprev, truncTs_of_lt hts]

/-! ## The block along a Capture Window -/

theorem afterStep_commandSample {s : State} {w : CmdWord} {xs : List PortSample}
    (hs : s.inputs = commandSample w :: xs) :
    afterStep s = afterCommand (decode s.cfg.tsw w) s.consume := by
  rw [afterStep, State.sample_of_inputs hs]
  rfl

theorem eventsOf_cons (tsw : Nat) (w : CmdWord) (ws : List CmdWord) :
    eventsOf tsw (w :: ws) = (eventOf tsw w).toList ++ eventsOf tsw ws := by
  rw [eventsOf, eventsOf, List.filterMap_cons]
  cases eventOf tsw w <;> rfl

theorem strobedBits_outputsAlong_succ (k : Nat) (s : State) :
    strobedBits (outputsAlong (k + 1) s) =
      (afterStep s).strobedBit.toList ++ strobedBits (outputsAlong k (afterStep s)) := by
  have hout : outputsAlong (k + 1) s = [(afterStep s).outputs] ++ outputsAlong k (afterStep s) := by
    rw [outputsAlong, step_eq]
    rfl
  rw [hout, strobedBits, List.filterMap_append, filterMap_singleton]
  rfl

/-- A command inside a Capture Window is an event, with a `TSW`-bit timestamp, or does what `NOP`
does (R72). -/
theorem insideWindow_cases {tsw : Nat} {w : CmdWord} (h : insideWindow (decode tsw w) = true) :
    (∃ d ts, eventOf tsw w = some ⟨d, ts⟩ ∧ decode tsw w = .edge d ts ∧ ts.toNat < 2 ^ tsw) ∨
      (eventOf tsw w = none ∧ ∀ s, afterCommand (decode tsw w) s = s.clearStrobes) := by
  have hwf := decode_wellFormed tsw w
  rw [eventOf]
  cases hd : decode tsw w with
  | edge d ts =>
    rw [hd] at hwf
    exact .inl ⟨d, ts, rfl, rfl, of_decide_eq_true hwf⟩
  | start | finish | clear => simp [hd, insideWindow] at h
  | nop | rsvd5 | rsvd6 | rsvd7 => exact .inr ⟨rfl, fun _ => rfl⟩

/-- One command of a Capture Window: its event, if it is one, is taken, and the strobes carry the bit
that the event adds to the sequence of R72. -/
theorem State.Captured.afterStep (h : s.Captured seen) {w : CmdWord} {xs : List PortSample}
    (hs : s.inputs = commandSample w :: xs) (hw : insideWindow (decode s.cfg.tsw w) = true) :
    (afterStep s).Captured (seen ++ (eventOf s.cfg.tsw w).toList) ∧
      indexedBits s.cfg (seen ++ (eventOf s.cfg.tsw w).toList) =
        indexedBits s.cfg seen ++ (Machine.afterStep s).strobedBit.toList := by
  rw [afterStep_commandSample hs]
  rcases insideWindow_cases hw with ⟨d, ts, hevent, hd, hts⟩ | ⟨hevent, hidle⟩ <;> rw [hevent]
  · rw [hd, afterCommand, if_pos (h.consume.phase), Option.toList_some, indexedBits_concat,
      h.consume.strobedBit_captureEdge]
    exact ⟨h.consume.clearStrobes.captureEdge d hts, rfl⟩
  · rw [hidle, Option.toList_none, List.append_nil]
    exact ⟨h.consume.clearStrobes, (List.append_nil _).symm⟩

/-- The commands of a Capture Window: their events are taken, and the strobes carry the bits these add
to the sequence of R72. -/
theorem State.Captured.run {rest : List PortSample} (ws : List CmdWord) {s : State}
    {seen : List Event} (h : s.Captured seen) (hs : s.inputs = ws.map commandSample ++ rest)
    (hws : ∀ w ∈ ws, insideWindow (decode s.cfg.tsw w) = true) :
    (Machine.afterStep^[ws.length] s).Captured (seen ++ eventsOf s.cfg.tsw ws) ∧
      (Machine.afterStep^[ws.length] s).cfg = s.cfg ∧
      (Machine.afterStep^[ws.length] s).inputs = rest ∧
      indexedBits s.cfg (seen ++ eventsOf s.cfg.tsw ws) =
        indexedBits s.cfg seen ++ strobedBits (outputsAlong ws.length s) := by
  induction ws generalizing s seen with
  | nil => simpa [eventsOf, outputsAlong, strobedBits, hs] using h
  | cons w ws ih =>
    obtain ⟨hw, hws⟩ := List.forall_mem_cons.1 hws
    obtain ⟨hstep, hbits⟩ := h.afterStep hs hw
    have hcfg : (Machine.afterStep s).cfg = s.cfg := by
      rw [afterStep_commandSample hs, afterCommand_cfg, State.consume_cfg]
    have hinputs : (Machine.afterStep s).inputs = ws.map commandSample ++ rest := by
      rw [afterStep_commandSample hs, afterCommand_inputs, State.consume_inputs, hs]
      rfl
    have hrun := ih hstep hinputs (hcfg ▸ hws)
    rwa [hcfg, hbits, List.append_assoc, List.append_assoc, ← eventsOf_cons,
      ← strobedBits_outputsAlong_succ] at hrun

/-- `START` and the commands of a Capture Window: the registers hold what the window's events say, and
the strobes carried exactly the sequence of R72. -/
theorem captured_window {start : CmdWord} {ws : List CmdWord} {rest : List PortSample}
    (hstart : decode s.cfg.tsw start = .start)
    (hws : ∀ w ∈ ws, insideWindow (decode s.cfg.tsw w) = true)
    (hs : s.inputs = commandSample start :: (ws.map commandSample ++ rest)) :
    (afterStep^[ws.length + 1] s).Captured (eventsOf s.cfg.tsw ws) ∧
      (afterStep^[ws.length + 1] s).cfg = s.cfg ∧
      (afterStep^[ws.length + 1] s).inputs = rest ∧
      strobedBits (outputsAlong (ws.length + 1) s) = indexedBits s.cfg (eventsOf s.cfg.tsw ws) := by
  have hopen : afterStep s = s.consume.openCycle := by
    rw [afterStep_commandSample hs, hstart]
    rfl
  have hinputs : s.consume.openCycle.inputs = ws.map commandSample ++ rest :=
    congrArg List.tail hs
  obtain ⟨hcaptured, hcfg, hrest, hbits⟩ := (captured_openCycle s.consume).run ws hinputs hws
  rw [Function.iterate_succ_apply, strobedBits_outputsAlong_succ, hopen]
  exact ⟨hcaptured, hcfg, hrest, hbits.symm⟩

end Captured

/-- Settles O29: `START` opens a capture of no event, and along the window the block keeps step with
the sequence of R72, which grows as the batch decoder's does. -/
theorem streamingAgreesWithTheBatchDecoder : Obligations.StreamingAgreesWithTheBatchDecoder := by
  refine ⟨fun s start ws rest hstart hws hs => ?_, indexedBits_eq_batchBits,
    fun c window h e he => ?_⟩
  · obtain ⟨⟨hphase, hbits, hevcnt, hlast, hhum, htemp, herr⟩, hcfg, hrest, hstrobed⟩ :=
      captured_window hstart hws hs
    rw [hcfg] at hbits
    have ⟨hcount, hovf, hframe⟩ := hbits
    exact ⟨hstrobed, _, core_run_eq _ s, hphase, hcount, hovf, hframe, hevcnt, hlast,
      fun _ => packedBytes_getElem?_of_holdsBits hbits, hhum, htemp, herr, hcfg, hrest⟩
  · have hlen := length_indexedBits_of_alternates c h he
    refine ⟨fun hd => ?_, fun hd => ?_⟩ <;> rw [hlen, hd] <;> rfl

end Sys2Proof.Machine
end

section
/-! Proofs of the family `42_frame_validator.md`: `FINISH`, its length check and its checksum, and the Reading
it publishes (R74 to R83). -/

namespace Sys2Proof

/-- The words of `FINISH` decode to it whatever their `TS` field holds (R53, R74). -/
theorem decode_finishWord {tsw x : Nat} (timeout : Bool) (hw : tsw ≤ 64) (hx : x < 2 ^ tsw) :
    decode tsw (packWord tsw 3 timeout x) = .finish timeout := by
  obtain ⟨hop, hflag, -⟩ := fields_packWord timeout hw (by decide : 3 < 8) hx
  rw [decode, hop, hflag]
  rfl

end Sys2Proof

namespace Sys2Proof.Machine

/-! ## `FINISH` as a next state -/

theorem exec_finish_of_ne_capturing {s : State} (hp : s.phase ≠ .capturing) (timeout : Bool) :
    exec (.finish timeout) s = .next s.clearStrobes := by
  rw [exec_eq, afterCommand, if_neg hp]

theorem exec_finish_of_capturing {s : State} (hp : s.phase = .capturing) (timeout : Bool) :
    exec (.finish timeout) s = .next (s.clearStrobes.judge timeout) := by
  rw [exec_eq, afterCommand, if_pos hp]

/-- Inversion of `FINISH`: it judged the capture, or there was none to judge (R74, R80). -/
theorem exec_finish_cases {s t : State} {timeout : Bool} (h : exec (.finish timeout) s = .next t) :
    (s.phase = .capturing ∧ t = s.clearStrobes.judge timeout) ∨
      (s.phase ≠ .capturing ∧ t = s.clearStrobes) := by
  by_cases hp : s.phase = .capturing
  · rw [exec_finish_of_capturing hp] at h
    exact .inl ⟨hp, (Host.Outcome.next.inj h).symm⟩
  · rw [exec_finish_of_ne_capturing hp] at h
    exact .inr ⟨hp, (Host.Outcome.next.inj h).symm⟩

/-! ## The judgement by its checks -/

/-- The three checks of R74 in their order, each with the state it leads to. -/
theorem judge_eq_checks (timeout : Bool) (s : State) :
    s.judge timeout =
      if timeout = true ∧ s.evcnt.toNat < 82 then s.reject .captureTimeout
      else if s.evcnt.toNat < 82 ∨ s.bitcnt.toNat ≠ 40 ∨ s.ovf = true then
        s.reject .frameLengthError
      else if (frameByte s.frame 4).toNat ≠
          ((frameByte s.frame 0).toNat + (frameByte s.frame 1).toNat + (frameByte s.frame 2).toNat +
            (frameByte s.frame 3).toNat) % 256 then s.reject .checksumError
      else s.publish := by
  rw [judge_eq, verdict_eq]
  by_cases htime : timeout = true ∧ s.evcnt.toNat < 82
  · simp only [if_pos htime, reduceCtorEq, if_false]
  simp only [if_neg htime]
  by_cases hlen : s.evcnt.toNat < 82 ∨ s.bitcnt.toNat ≠ 40 ∨ s.ovf = true
  · simp only [if_pos hlen, reduceCtorEq, if_false]
  simp only [if_neg hlen]
  split
  · exact if_neg (by decide)
  · exact if_pos rfl

/-- A frame of the right length is judged by its checksum alone, whatever the flag (R75 to R77). -/
theorem judge_of_rightLength {s : State} (h : s.rightLength = true) (timeout : Bool) :
    s.judge timeout = if s.checksumOk = true then s.publish else s.reject .checksumError := by
  obtain ⟨hev, hbits, hovf⟩ := (rightLength_iff s).1 h
  rw [judge_eq_checks, if_neg (by omega), if_neg (by simp [hbits, hovf, hev])]
  simp only [checksumOk_iff, ite_not]

/-- A frame of the right length, in `Capturing`, is published or rejected by its checksum. -/
theorem exec_finish_of_rightLength {s : State} (hp : s.phase = .capturing)
    (hlen : s.rightLength = true) (timeout : Bool) :
    exec (.finish timeout) s = .next
      (if s.checksumOk = true then s.clearStrobes.publish
       else s.clearStrobes.reject .checksumError) := by
  rw [exec_finish_of_capturing hp, judge_of_rightLength (s := s.clearStrobes) hlen]
  rfl

/-- A capture that passes both checks is published (R74). -/
theorem exec_finish_of_passes {s : State} (hp : s.phase = .capturing) (hlen : s.rightLength = true)
    (hsum : s.checksumOk = true) (timeout : Bool) :
    exec (.finish timeout) s = .next s.clearStrobes.publish := by
  rw [exec_finish_of_rightLength hp hlen, if_pos hsum]

/-- Only a capture that passes both checks is validated (R76, R77). -/
theorem passes_of_exec_finish {s t : State} {timeout : Bool} (hp : s.phase = .capturing)
    (h : exec (.finish timeout) s = .next t) (hv : t.phase = .validated) :
    s.rightLength = true ∧ s.checksumOk = true ∧ t = s.clearStrobes.publish := by
  rw [exec_finish_of_capturing hp, judge_eq] at h
  obtain rfl := Host.Outcome.next.inj h
  split at hv
  · next hnone =>
    obtain ⟨hlen, hsum⟩ := (verdict_eq_none_iff timeout s.clearStrobes).1 hnone
    exact ⟨hlen, hsum, if_pos hnone⟩
  · simp at hv

/-! ## The Reading -/

/-- A 16-bit field is its two bytes side by side, the high one first (R38, R78). -/
theorem memRead_two_eq_append (f : Frame) {addr : Nat} (h : addr ≤ 3) :
    memRead f addr 2 = frameByte f addr ++ frameByte f (addr + 1) := by
  have hlow : 40 - 8 * (addr + 2) = 32 - 8 * (addr + 1) := by omega
  rw [memRead, hlow]
  exact (BitVec.extractLsb'_append_extractLsb'_eq_extractLsb' (by omega)).symm

/-- A 16-bit field as the number R78 computes. -/
theorem memRead_two_eq_ofNat (f : Frame) {addr : Nat} (h : addr ≤ 3) :
    memRead f addr 2 =
      BitVec.ofNat 16 ((frameByte f addr).toNat * 256 + (frameByte f (addr + 1)).toNat) := by
  rw [← memRead_two_toNat f addr h]
  exact ((BitVec.ofNat_toNat 16 (memRead f addr 2)).trans (BitVec.setWidth_eq _)).symm

/-- Settles O30: the words decode by their fields, and the judgement goes through its checks in their
order. -/
theorem finishFollowsItsPseudocode : Obligations.FinishFollowsItsPseudocode := by
  refine ⟨fun x hx => ⟨?_, ?_⟩, fun s timeout hp => ?_,
    fun s timeout hp => exec_finish_of_ne_capturing hp timeout⟩
  · exact decode_finishWord false (by decide) hx
  · exact decode_finishWord true (by decide) hx
  · dsimp only
    rw [exec_finish_of_capturing hp, judge_eq_checks, ← memRead_two_eq_ofNat s.frame (by decide),
      ← memRead_two_eq_ofNat s.frame (by decide)]
    rfl

/-! ## `FINISH` after `FINISH`, and what it keeps -/

theorem State.clearStrobes_eq_self {s : State} (hb : s.bstb = false) (hv : s.bval = false) :
    s.clearStrobes = s := by
  cases s
  subst hb hv
  rfl

/-- `FINISH` leaves the capture closed and the strobes 0 (R58, R63). -/
theorem exec_finish_closes {s t : State} {timeout : Bool} (h : exec (.finish timeout) s = .next t) :
    t.phase ≠ .capturing ∧ t.clearStrobes = t := by
  rcases exec_finish_cases h with ⟨-, rfl⟩ | ⟨hp, rfl⟩
  · obtain ⟨-, -, -, -, -, hb, hv, -, -⟩ := judge_kept timeout s.clearStrobes
    refine ⟨fun hp => ?_, State.clearStrobes_eq_self hb hv⟩
    rcases judge_phase timeout s.clearStrobes with hj | ⟨hj, -⟩ <;> simp [hj] at hp
  · exact ⟨hp, rfl⟩

/-- Settles O31: after a first `FINISH` no capture is open and no strobe is left to clear. -/
theorem finishOutsideCapturingActsAsNop : Obligations.FinishOutsideCapturingActsAsNop := by
  refine ⟨fun s timeout hp => exec_finish_of_ne_capturing hp timeout,
    fun s t first second h => ?_⟩
  obtain ⟨hp, hclear⟩ := exec_finish_closes h
  rw [exec_finish_of_ne_capturing hp, hclear]

/-- Settles O36: the judgement writes no register of the capture, and `START` and `CLEAR` clear them. -/
theorem finishLeavesTheCaptureAlone : Obligations.FinishLeavesTheCaptureAlone := by
  refine ⟨fun s timeout => ?_, fun s t h => ?_⟩
  · by_cases hp : s.phase = .capturing
    · obtain ⟨hprev, hframe, hev, hbits, hovf, -, -, hcfg, hin⟩ := judge_kept timeout s.clearStrobes
      exact ⟨_, exec_finish_of_capturing hp timeout, hframe, hprev, hev, hbits, hovf, hcfg, hin,
        fun j _ => congrArg (frameByte · j) hframe⟩
    · exact ⟨_, exec_finish_of_ne_capturing hp timeout, rfl, rfl, rfl, rfl, rfl, rfl, rfl,
        fun _ _ => rfl⟩
  · rcases h with h | h <;> rw [exec_eq] at h <;> obtain rfl := Host.Outcome.next.inj h <;>
      exact ⟨rfl, rfl, rfl, rfl, rfl⟩

/-! ## Frames that pass the checksum -/

/-- The frame of four data bytes and their sum modulo 256 (R77, R83). -/
def checkedFrame (h1 h0 t1 t0 : Byte) : Frame :=
  h1 ++ h0 ++ t1 ++ t0 ++ BitVec.ofNat 8 ((h1.toNat + h0.toNat + t1.toNat + t0.toNat) % 256)

/-- The bytes of five bytes in a row are those five (R16). -/
theorem frameByte_append (b0 b1 b2 b3 b4 : Byte) :
    frameByte (b0 ++ b1 ++ b2 ++ b3 ++ b4) 0 = b0 ∧ frameByte (b0 ++ b1 ++ b2 ++ b3 ++ b4) 1 = b1 ∧
    frameByte (b0 ++ b1 ++ b2 ++ b3 ++ b4) 2 = b2 ∧ frameByte (b0 ++ b1 ++ b2 ++ b3 ++ b4) 3 = b3 ∧
    frameByte (b0 ++ b1 ++ b2 ++ b3 ++ b4) 4 = b4 := by
  have drop {n start : Nat} (x : BitVec n) (b : Byte) (h : 8 ≤ start) :
      (x ++ b).extractLsb' start 8 = x.extractLsb' (start - 8) 8 :=
    BitVec.extractLsb'_append_eq_of_le h
  have last {n : Nat} (x : BitVec n) (b : Byte) : (x ++ b).extractLsb' 0 8 = b :=
    BitVec.extractLsb'_append_eq_right
  refine ⟨?_, ?_, ?_, ?_, last _ b4⟩
  · exact (drop _ b4 (by decide)).trans ((drop _ b3 (by decide)).trans ((drop _ b2 (by decide)).trans
      ((drop b0 b1 (by decide)).trans BitVec.extractLsb'_eq_self)))
  · exact (drop _ b4 (by decide)).trans ((drop _ b3 (by decide)).trans ((drop _ b2 (by decide)).trans
      (last b0 b1)))
  · exact (drop _ b4 (by decide)).trans ((drop _ b3 (by decide)).trans (last _ b2))
  · exact (drop _ b4 (by decide)).trans (last _ b3)

section checkedFrame
variable (h1 h0 t1 t0 : Byte)

theorem frameByte_checkedFrame :
    frameByte (checkedFrame h1 h0 t1 t0) 0 = h1 ∧ frameByte (checkedFrame h1 h0 t1 t0) 1 = h0 ∧
    frameByte (checkedFrame h1 h0 t1 t0) 2 = t1 ∧ frameByte (checkedFrame h1 h0 t1 t0) 3 = t0 ∧
    frameByte (checkedFrame h1 h0 t1 t0) 4 =
      BitVec.ofNat 8 ((h1.toNat + h0.toNat + t1.toNat + t0.toNat) % 256) :=
  frameByte_append h1 h0 t1 t0 _

/-- The adder of R77 finds the sum modulo 256 in the fifth byte. -/
theorem checksum_checkedFrame :
    frameByte (checkedFrame h1 h0 t1 t0) 4 = checksum (checkedFrame h1 h0 t1 t0) := by
  obtain ⟨e0, e1, e2, e3, e4⟩ := frameByte_checkedFrame h1 h0 t1 t0
  apply BitVec.eq_of_toNat_eq
  rw [checksum_toNat, e0, e1, e2, e3, e4, BitVec.toNat_ofNat, Nat.mod_mod]

theorem memRead_checkedFrame :
    memRead (checkedFrame h1 h0 t1 t0) 0 2 = h1 ++ h0 ∧
      memRead (checkedFrame h1 h0 t1 t0) 2 2 = t1 ++ t0 := by
  obtain ⟨e0, e1, e2, e3, -⟩ := frameByte_checkedFrame h1 h0 t1 t0
  rw [memRead_two_eq_append _ (by decide), memRead_two_eq_append _ (by decide), e0, e1, e2, e3]
  exact ⟨rfl, rfl⟩

end checkedFrame

/-- A capture of the least number of events that gave the 40 bits of a frame. -/
def fullCapture (f : Frame) : State :=
  { State.reset with phase := .capturing, evcnt := 82, bitcnt := 40, frame := f }

theorem fullCapture_inv (f : Frame) (xs : List PortSample) : ((fullCapture f).withInputs xs).Inv :=
  .of_capturing rfl rfl rfl rfl (by simp [bitCountBounded, State.withInputs, fullCapture])
    (by simp [nothingBelowFill, State.withInputs, fullCapture])
    (by simp [bitsFromEvents, State.withInputs, fullCapture]) (fun _ => rfl)
    (by simp [registersFit, State.withInputs, fullCapture, Config.defaults, Config.legal])

/-- A full capture of a checked frame is published (R74). -/
theorem exec_finish_checkedFrame (h1 h0 t1 t0 : Byte) (timeout : Bool) :
    exec (.finish timeout) (fullCapture (checkedFrame h1 h0 t1 t0)) =
      .next (fullCapture (checkedFrame h1 h0 t1 t0)).publish :=
  exec_finish_of_passes rfl rfl (decide_eq_true (checksum_checkedFrame h1 h0 t1 t0)) timeout

/-- A clock edge with the canonical word of `FINISH` publishes it (R58, R74). -/
theorem step_finish_checkedFrame (h1 h0 t1 t0 : Byte) (timeout : Bool) :
    step ((fullCapture (checkedFrame h1 h0 t1 t0)).withInputs
        [commandSample (packWord 32 3 timeout 0)]) =
      .next (fullCapture (checkedFrame h1 h0 t1 t0)).publish := by
  have hword : decode 32 (packWord 32 3 timeout 0) = .finish timeout :=
    decode_finishWord timeout (by decide) (Nat.two_pow_pos 32)
  rw [← exec_finish_checkedFrame h1 h0 t1 t0 timeout, ← hword]
  exact step_commandSample (fullCapture (checkedFrame h1 h0 t1 t0)) _ []

/-- Settles O35: the Reading is read off the frame's fields, and the checked frame of its four bytes
makes a capture that gives it. -/
theorem validatedReadingIsHighTimes256PlusLow : Obligations.ValidatedReadingIsHighTimes256PlusLow := by
  refine ⟨fun s t timeout hp h hv => ?_, fun h v => ?_⟩
  · obtain ⟨-, -, rfl⟩ := passes_of_exec_finish hp h hv
    exact ⟨memRead_two_toNat s.frame 0 (by decide), memRead_two_toNat s.frame 2 (by decide),
      memRead_two_eq_append s.frame (by decide), memRead_two_eq_append s.frame (by decide)⟩
  · have hbytes (x : BitVec 16) : x.extractLsb' 8 8 ++ x.extractLsb' 0 8 = x :=
      (BitVec.extractLsb'_append_extractLsb'_eq_extractLsb' rfl).trans BitVec.extractLsb'_eq_self
    obtain ⟨hhum, htemp⟩ := memRead_checkedFrame (h.extractLsb' 8 8) (h.extractLsb' 0 8)
      (v.extractLsb' 8 8) (v.extractLsb' 0 8)
    exact ⟨_, _, fullCapture_inv _ [], rfl, exec_finish_checkedFrame _ _ _ _ false, rfl,
      hhum.trans (hbytes h), htemp.trans (hbytes v)⟩

/-- Two passing frames that agree in four bytes agree in the fifth: in the sum each byte can be
cancelled against the other four (R77). -/
theorem frameByte_eq_of_checksums {f g : Frame} (hf : frameByte f 4 = checksum f)
    (hg : frameByte g 4 = checksum g) {j : Nat} (hj : j < 5)
    (hothers : ∀ k < 5, k ≠ j → frameByte f k = frameByte g k) : frameByte f j = frameByte g j := by
  have hzero (k : Nat) (hk : k < 5) (hkj : k ≠ j) : frameByte f k - frameByte g k = 0 :=
    sub_eq_zero.2 (hothers k hk hkj)
  have hsum : (frameByte f 0 - frameByte g 0) + (frameByte f 1 - frameByte g 1) +
      (frameByte f 2 - frameByte g 2) + (frameByte f 3 - frameByte g 3) =
      frameByte f 4 - frameByte g 4 := by
    rw [checksum] at hf hg
    linear_combination hg - hf
  rw [← sub_eq_zero]
  obtain hlt | rfl : j < 4 ∨ j = 4 := by omega
  · interval_cases j <;> simpa [hzero] using hsum
  · simpa [hzero] using hsum.symm

/-- Settles O38: a checked frame passes, and a frame that differs from a passing one in one byte does not
pass; in the two checked frames of (c) the changes cancel. -/
theorem checksumCatchesEverySingleByteError : Obligations.ChecksumCatchesEverySingleByteError := by
  refine ⟨fun s timeout h1 h0 t1 t0 hp hev hbits hovf hf => ?_,
    fun s t timeout f j hp h hv hj hne hothers => ?_, ?_⟩
  · have hlen : s.rightLength = true := (rightLength_iff s).2 ⟨hev, hbits, hovf⟩
    have hf : s.frame = checkedFrame h1 h0 t1 t0 := hf
    have hsum : s.checksumOk = true := decide_eq_true (hf ▸ checksum_checkedFrame h1 h0 t1 t0)
    obtain ⟨e0, e1, e2, e3, -⟩ := frameByte_checkedFrame h1 h0 t1 t0
    refine ⟨_, exec_finish_of_passes hp hlen hsum timeout, rfl, ?_, ?_⟩
    · rw [State.publish_hum, State.clearStrobes_frame, memRead_two_toNat _ 0 (by decide), hf, e0, e1]
    · rw [State.publish_temp, State.clearStrobes_frame, memRead_two_toNat _ 2 (by decide), hf, e2, e3]
  · obtain ⟨hlen, hsum, -⟩ := passes_of_exec_finish hp h hv
    have hbad : ¬ State.checksumOk { s with frame := f } = true := fun hok =>
      hne (frameByte_eq_of_checksums (of_decide_eq_true hok) (of_decide_eq_true hsum) hj hothers)
    refine ⟨_, exec_finish_of_rightLength (s := { s with frame := f }) hp hlen timeout, ?_⟩
    rw [if_neg hbad]
    exact ⟨rfl, rfl⟩
  · exact ⟨fullCapture (checkedFrame 1 56 0 195), _, _, checkedFrame 1 57 0 194, rfl,
      exec_finish_checkedFrame 1 56 0 195 false, rfl, exec_finish_checkedFrame 1 57 0 194 false, rfl,
      by decide, by decide⟩

/-! ## Nothing partial -/

/-- Settles O49: R33 keeps the Reading 0 outside `Validated`; the checked frame of four zero bytes is
validated. -/
theorem nothingPartialIsSurfaced : Obligations.NothingPartialIsSurfaced := by
  refine ⟨fun s h hne => ?_, fun s h hp => ?_, fun _ _ => rfl, ?_⟩
  · by_contra hp
    obtain ⟨hhum, htemp⟩ := h.reading_eq_zero hp
    exact hne.elim (· hhum) (· htemp)
  · have hv : s.phase ≠ .validated := by simp [hp]
    obtain ⟨hhum, htemp⟩ := h.reading_eq_zero hv
    exact ⟨hhum, htemp, by simp [State.outputs, hp], hhum, htemp⟩
  · obtain ⟨hhum, htemp⟩ := memRead_checkedFrame 0 0 0 0
    exact ⟨_, _, fullCapture_inv _ _, step_finish_checkedFrame 0 0 0 0 false, rfl, hhum, htemp⟩

end Sys2Proof.Machine
end

section
/-! Proofs of the family `60_exceptions.md`: which capture raises which error (R85 to R87), the
reject sequence (R88), and the verdict that stands until the block is cleared (R92). -/

namespace Sys2Proof.Machine

/-! ## The error kind a judgement leaves -/

/-- `ERR` after the judgement is the verdict, also when it is no error (R74). -/
theorem judge_err (timeout : Bool) (s : State) : (s.judge timeout).err = s.verdict timeout := by
  rw [judge_eq]
  split
  · next hnone => rw [State.publish_err, hnone]
  · rw [State.reject_err]

/-- `CaptureTimeout` is the first check (R85, R90). -/
theorem verdict_eq_captureTimeout_iff (timeout : Bool) (s : State) :
    s.verdict timeout = .captureTimeout ↔ timeout = true ∧ s.evcnt.toNat < 82 := by
  rw [verdict_eq]
  split
  · next htime => exact iff_of_true rfl htime
  · next htime => exact iff_of_false (by split_ifs <;> decide) htime

/-- `FrameLengthError` is the second check, reached when the first passes (R86, R90). -/
theorem verdict_eq_frameLengthError_iff (timeout : Bool) (s : State) :
    s.verdict timeout = .frameLengthError ↔
      ¬ (timeout = true ∧ s.evcnt.toNat < 82) ∧
        (s.evcnt.toNat < 82 ∨ s.bitcnt.toNat ≠ 40 ∨ s.ovf = true) := by
  rw [verdict_eq]
  split
  · next htime => exact iff_of_false (by decide) (fun ⟨h, _⟩ => h htime)
  split
  · next htime hlen => exact iff_of_true rfl ⟨htime, hlen⟩
  · next hlen => exact iff_of_false (by split_ifs <;> decide) (fun ⟨_, h⟩ => hlen h)

/-- `ChecksumError` is the third check, reached by a frame of the right length: such a capture has
not timed out either (R87, R90). -/
theorem verdict_eq_checksumError_iff (timeout : Bool) (s : State) :
    s.verdict timeout = .checksumError ↔
      82 ≤ s.evcnt.toNat ∧ s.bitcnt.toNat = 40 ∧ s.ovf = false ∧
        (frameByte s.frame 4).toNat ≠
          ((frameByte s.frame 0).toNat + (frameByte s.frame 1).toNat +
            (frameByte s.frame 2).toNat + (frameByte s.frame 3).toNat) % 256 := by
  rw [verdict_eq]
  split
  · next htime => exact iff_of_false (by decide) (by omega)
  split
  · next hlen => exact iff_of_false (by decide) (fun ⟨hev, hbits, hovf, _⟩ =>
      absurd hlen (by simp [hev, hbits, hovf]))
  · next hlen =>
    simp only [not_or, not_lt, not_not, Bool.not_eq_true] at hlen
    obtain ⟨hev, hbits, hovf⟩ := hlen
    split
    · next hsum => exact iff_of_true rfl ⟨hev, hbits, hovf, hsum⟩
    · next hsum => exact iff_of_false (by decide) (fun ⟨_, _, _, h⟩ => hsum h)

/-- `FINISH` in `Capturing` completes and leaves in `ERR` the verdict on the capture (R74). -/
theorem exec_finish_err {s : State} (hp : s.phase = .capturing) (timeout : Bool) :
    ∃ t, exec (.finish timeout) s = .next t ∧ t.err = s.verdict timeout :=
  ⟨_, exec_finish_of_capturing hp timeout, judge_err timeout s.clearStrobes⟩

/-- From 82 events on the deadline flag plays no part (R75). -/
theorem exec_finish_congr_flag {s : State} (hev : 82 ≤ s.evcnt.toNat) (timeout timeout' : Bool) :
    exec (.finish timeout) s = exec (.finish timeout') s := by
  have hintime (b : Bool) : ¬ (b = true ∧ s.clearStrobes.evcnt.toNat < 82) :=
    fun h => absurd h.2 (Nat.not_lt.2 hev)
  have hjudge : s.clearStrobes.judge timeout = s.clearStrobes.judge timeout' := by
    rw [judge_eq_checks, judge_eq_checks, if_neg (hintime timeout), if_neg (hintime timeout')]
  rw [exec_eq, exec_eq, afterCommand, afterCommand, hjudge]

/-- Settles O32: the first check of the verdict, and the flag without effect from 82 events on. -/
theorem captureTimeoutIsRaisedExactly : Obligations.CaptureTimeoutIsRaisedExactly := by
  intro s timeout hp
  obtain ⟨t, ht, herr⟩ := exec_finish_err hp timeout
  exact ⟨t, ht, rfl, herr ▸ verdict_eq_captureTimeout_iff timeout s,
    fun _ hev => (exec_finish_congr_flag hev false timeout).trans ht⟩

/-- Settles O33: the second check of the verdict. -/
theorem frameLengthErrorIsRaisedExactly : Obligations.FrameLengthErrorIsRaisedExactly := by
  intro s timeout hp
  obtain ⟨t, ht, herr⟩ := exec_finish_err hp timeout
  exact ⟨t, ht, rfl, herr ▸ verdict_eq_frameLengthError_iff timeout s⟩

/-- Settles O34: the third check of the verdict. -/
theorem checksumErrorIsRaisedExactly : Obligations.ChecksumErrorIsRaisedExactly := by
  intro s timeout hp
  obtain ⟨t, ht, herr⟩ := exec_finish_err hp timeout
  exact ⟨t, ht, rfl, herr ▸ verdict_eq_checksumError_iff timeout s⟩

/-! ## The reject sequence -/

/-- Only the reject sequence, with the error the verdict names, ends in `Rejected` (R74, R88). -/
theorem rejects_of_exec_finish {s t : State} {timeout : Bool} (hp : s.phase = .capturing)
    (h : exec (.finish timeout) s = .next t) (hr : t.phase = .rejected) :
    s.verdict timeout ≠ .none ∧ t = s.clearStrobes.reject (s.verdict timeout) := by
  rw [exec_finish_of_capturing hp, judge_eq] at h
  obtain rfl := Host.Outcome.next.inj h
  split at hr
  · simp at hr
  · next herr => exact ⟨herr, if_neg herr⟩

/-- Code 0 is that of no error (R84). -/
theorem ErrKind.code_ne_zero {e : ErrKind} (h : e ≠ .none) : e.code ≠ 0 := by
  cases e with
  | none => exact absurd rfl h
  | captureTimeout | frameLengthError | checksumError => decide

/-- Settles O37: the rejected state is the reject sequence's, and the ports are read off it. -/
theorem rejectionWritesOnlyTheVerdict : Obligations.RejectionWritesOnlyTheVerdict := by
  intro s t timeout hp h hr
  obtain ⟨herr, rfl⟩ := rejects_of_exec_finish hp h hr
  exact ⟨s.verdict timeout, herr, rfl, rfl, rfl, rfl, ErrKind.code_ne_zero herr⟩

/-! ## A finished cycle -/

theorem State.ne_capturing_of_done {s : State} (h : s.done = true) : s.phase ≠ .capturing := by
  intro hp
  simp [State.done, hp] at h

/-- Outside `Capturing` every command but `START` and `CLEAR` acts as `NOP` (R59, R62, R71, R80). -/
theorem afterCommand_of_ne_capturing {i : Instr} {s : State} (hp : s.phase ≠ .capturing)
    (hstart : i ≠ .start) (hclear : i ≠ .clear) : afterCommand i s = s.clearStrobes := by
  cases i with
  | start => exact absurd rfl hstart
  | clear => exact absurd rfl hclear
  | edge d ts => rw [afterCommand, if_neg hp]
  | finish timeout => rw [afterCommand, if_neg hp]
  | nop | rsvd5 | rsvd6 | rsvd7 => rfl

theorem afterStep_of_commandNow_none {s : State} (h : s.commandNow = none) :
    afterStep s = s.consume.clearRegisters := by
  rcases afterStep_cases s with ⟨-, e⟩ | ⟨i, hi, -⟩
  · exact e
  · simp [h] at hi

theorem afterStep_of_commandNow_some {s : State} {i : Instr} (h : s.commandNow = some i) :
    afterStep s = afterCommand i s.consume := by
  rcases afterStep_cases s with ⟨hnone, -⟩ | ⟨j, hj, e⟩
  · simp [h] at hnone
  · obtain rfl : i = j := Option.some.inj (h.symm.trans hj)
    exact e

/-- Settles O47: in a finished cycle no command but `START` and `CLEAR` does more than `NOP`, and
these two and reset clear the registers. -/
theorem verdictStandsUntilCleared : Obligations.VerdictStandsUntilCleared := by
  refine ⟨fun s t hd hst hnone hstart hclear => ?_, fun s t _ hst => ⟨fun h => ?_, fun h => ?_⟩⟩ <;>
    obtain rfl := eq_afterStep_of_step hst
  · obtain ⟨i, hi⟩ := Option.ne_none_iff_exists'.1 hnone
    have hp : s.consume.phase ≠ .capturing := State.ne_capturing_of_done hd
    rw [afterStep_of_commandNow_some hi, afterCommand_of_ne_capturing hp
      (by simpa [hi] using hstart) (by simpa [hi] using hclear)]
    rfl
  · have hcleared : afterStep s = s.consume.clearRegisters :=
      h.elim afterStep_of_commandNow_none afterStep_of_commandNow_some
    rw [hcleared, State.clearRegisters_eq_reset]
    rfl
  · rw [afterStep_of_commandNow_some h]
    rfl

end Sys2Proof.Machine
end

section
/-! Proofs of the family `other`, statements that draw on several files of the spec: encoding (R46 to
R51), the step (R26, R42, R58), the frame of `EDGE` (R64 to R70), the error kinds and the outcome of a
cycle (R72 to R90), the invariants (R33), and what the driver's duties give (R101 to R112). -/

namespace Sys2Proof

/-! ## Encoding -/

/-- The canonical word of an encodable command fits the port `cmd` (R46). -/
theorem encode_toNat_lt {tsw : Nat} {i : Instr} (hw : tsw ≤ 64) (h : i.wellFormed tsw = true) :
    (encode tsw i).toNat < 2 ^ (tsw + 4) := by
  rw [encode_eq_packWord]
  exact Laws.EncodeFits.of_pack i.flag hw i.opcode_lt (Instr.tsNat_lt_of_wellFormed h)

/-- Settles O2: the decoder reads back the three fields a command is packed from. -/
theorem decodeInvertsEncode : Obligations.DecodeInvertsEncode :=
  fun _ _ _ hw h => ⟨decode_encode hw h, encode_toNat_lt hw h⟩

/-- Settles O1: each word of the table is a fixed number. -/
theorem canonicalWordsDecodeToTheirCommands : Obligations.CanonicalWordsDecodeToTheirCommands := by
  unfold Obligations.CanonicalWordsDecodeToTheirCommands
  decide

/-- A number of the opcode table moved from `TSW = 32` to another `TSW` (30_encoding.md section 1). -/
def shiftToWidth (tsw x : Nat) : Nat := if 32 ≤ tsw then x <<< (tsw - 32) else x >>> (32 - tsw)

/-- The move takes the `OP` field from bit 33 to bit `TSW + 1`, where R46 has it. -/
theorem shiftToWidth_shiftLeft (tsw op : Nat) : shiftToWidth tsw (op <<< 33) = op <<< (tsw + 1) := by
  rw [shiftToWidth]
  split
  · rw [← Nat.shiftLeft_add, show 33 + (tsw - 32) = tsw + 1 by omega]
  · rw [show 33 = tsw + 1 + (32 - tsw) by omega, Nat.shiftLeft_add, Nat.shiftLeft_shiftRight]

theorem shiftLeft_inj {m n k : Nat} : m <<< k = n <<< k ↔ m = n := by
  rw [Nat.shiftLeft_eq, Nat.shiftLeft_eq, Nat.mul_left_inj (Nat.two_pow_pos k).ne']

/-- Every pattern of the table is an opcode at the place of `OP` (R47, R50). -/
theorem opcodeTable_pattern :
    ∀ row ∈ opcodeTable, row.pattern.toNat = (row.pattern.toNat >>> 33) <<< 33 := by decide

/-- Settles O5: the moved mask is the three `OP` bits, and the moved pattern the row's opcode there. -/
theorem otherWidthsShiftTheOpcodeTable : Obligations.OtherWidthsShiftTheOpcodeTable := by
  intro tsw w row _ _ hrow
  have hmask : row.mask.toNat = (2 ^ 3 - 1) <<< 33 := by rw [opcodeTable_mask row hrow]; rfl
  have hpattern := opcodeTable_pattern row hrow
  change w.toNat &&& shiftToWidth tsw row.mask.toNat = shiftToWidth tsw row.pattern.toNat ↔ _
  rw [mnemonic_eq_row_iff _ row hrow, opcode_decode, hmask, hpattern, shiftToWidth_shiftLeft,
    shiftToWidth_shiftLeft, and_mask_eq_slice, shiftLeft_inj, shiftLeft_inj, eq_comm]
  rfl

end Sys2Proof

namespace Sys2Proof.Machine

/-! ## The step -/

/-- The all-zero word is `NOP` at every `TSW` (R47). -/
theorem decode_zero (tsw : Nat) : decode tsw 0 = .nop := by
  simp [decode, opField, wordField]

/-- Settles O7: the sampled word decides the command, and an edge with nothing placed carries `NOP`. -/
theorem stepExecutesTheSampledCommand : Obligations.StepExecutesTheSampledCommand := by
  refine ⟨fun s w i rest hs hi => ?_, fun s hs => ?_⟩
  · rw [step, State.sample_of_inputs hs, State.consume_of_inputs hs, if_neg Bool.false_ne_true, hi]
  · have hsample : s.sample = idleSample := congrArg (·.headD idleSample) hs
    have hconsume : s.consume = s := by rw [State.consume, hs, List.tail_nil, ← hs]
    rw [step, hsample, hconsume, idleSample, if_neg Bool.false_ne_true, decode_zero]

/-- At `TSW = 32` a word of the table stands on the port as it is (R50). -/
theorem relayoutWord_32 {w : Nat} (hw : w < 2 ^ 36) : relayoutWord 32 w = BitVec.ofNat 68 w := by
  rw [relayoutWord, show w / 2 ^ 32 % 2 ^ 4 * 2 ^ 32 + w % 2 ^ 32 % 2 ^ 32 = w by omega]

/-- Settles O8: the placed word is the one the table decoder reads. -/
theorem fetchWordRunsTheTableCommand : Obligations.FetchWordRunsTheTableCommand := by
  intro s w htsw hw
  have hmod : w % 2 ^ 36 = w := Nat.mod_eq_of_lt hw
  refine ⟨decode 32 (BitVec.ofNat 68 w), ?_, ?_⟩
  · rw [decodeTableWord, hmod, decodeNat, if_pos hw]
    rfl
  · rw [State.withFetchWord, hmod, htsw, relayoutWord_32 hw, ← htsw]
    exact step_commandSample s _ _

theorem afterStep_cfg (s : State) : (afterStep s).cfg = s.cfg := by
  rcases afterStep_cases s with ⟨-, e⟩ | ⟨i, -, e⟩ <;> rw [e]
  · rfl
  · exact afterCommand_cfg i s.consume

theorem afterStep_inputs (s : State) : (afterStep s).inputs = s.inputs.tail := by
  rcases afterStep_cases s with ⟨-, e⟩ | ⟨i, -, e⟩ <;> rw [e]
  · rfl
  · exact afterCommand_inputs i s.consume

/-- Settles O10: the step is a function of the state that writes neither the parameters nor the later
samples. -/
theorem everyStepCompletesAndKeepsParameters : Obligations.EveryStepCompletesAndKeepsParameters :=
  fun s => ⟨afterStep s, step_eq s, afterStep_cfg s, afterStep_inputs s⟩

/-- The registers after a run are fixed by the samples of its own clock edges (R42). -/
theorem runSteps_withInputs_append (now : List PortSample) (s : State) : ∃ t : State, ∀ later,
    runSteps now.length (s.withInputs (now ++ later)) = .next (t.withInputs later) := by
  induction now generalizing s with
  | nil => exact ⟨s, fun _ => rfl⟩
  | cons x now ih =>
    obtain ⟨t, ht⟩ := ih
      (if x.rst then s.clearRegisters else afterCommand (decode s.cfg.tsw x.cmd) s)
    refine ⟨t, fun later => ?_⟩
    rw [← ht, runSteps, List.length_cons, core_run_succ, List.cons_append, afterStep_withInputs]
    rfl

/-- Settles O11: the state the run fixes does not mention what comes later. -/
theorem laterInputsDoNotMatter : Obligations.LaterInputsDoNotMatter := by
  intro s now later later'
  obtain ⟨t, ht⟩ := runSteps_withInputs_append now s
  exact ⟨t, ht later, ht later'⟩

/-! ## The frame of `EDGE` -/

/-- Settles O20: such an event is only taken and counted. -/
theorem handshakeSeedAndRisingEventsDecodeNothing :
    Obligations.HandshakeSeedAndRisingEventsDecodeNothing := by
  intro s d ts hp hno
  have hdec : ¬ (3 ≤ s.clearStrobes.evcnt.toNat ∧ d = .falling) := by
    rintro ⟨h3, rfl⟩
    exact hno.elim (Nat.not_lt.2 h3) (by decide)
  refine ⟨_, exec_edge_of_capturing hp d ts, ?_⟩
  rw [captureEdge_of_not_decodes hdec]
  exact ⟨rfl, rfl, rfl, rfl, rfl, rfl, satInc_evcnt_toNat s.evcnt⟩

/-- What a delivered bit does to `FRAME`: it is written at position `BITCNT`, or 40 bits are stored
already (R69). -/
theorem deliverBit_frame (b : Bool) (s : State) :
    (s.deliverBit b).frame = s.frame ∨ s.bitcnt.toNat < 40 ∧
      (s.deliverBit b).frame = frameBitWrite s.frame s.bitcnt.toNat b := by
  by_cases hlt : s.bitcnt.toNat < 40
  · exact .inr ⟨hlt, congrArg State.frame (deliverBit_of_lt hlt b)⟩
  · exact .inl (by rw [deliverBit_of_le (Nat.le_of_not_lt hlt)]; rfl)

/-- What `EDGE` in `Capturing` does to `FRAME` (R64, R69). -/
theorem captureEdge_frame (d : Dir) (ts : Ts) (s : State) :
    (s.captureEdge d ts).frame = s.frame ∨
      3 ≤ s.evcnt.toNat ∧ d = .falling ∧ s.bitcnt.toNat < 40 ∧
        ∃ b, (s.captureEdge d ts).frame = frameBitWrite s.frame s.bitcnt.toNat b := by
  by_cases hdec : 3 ≤ s.evcnt.toNat ∧ d = .falling
  · rw [captureEdge_of_decodes hdec]
    exact (deliverBit_frame _ s).imp_right fun ⟨hlt, e⟩ => ⟨hdec.1, hdec.2, hlt, _, e⟩
  · exact .inl (by rw [captureEdge_of_not_decodes hdec]; rfl)

/-- `EDGE` in `Capturing` never clears `OVF` (R23). -/
theorem captureEdge_ovf_of_ovf {s : State} (hovf : s.ovf = true) (d : Dir) (ts : Ts) :
    (s.captureEdge d ts).ovf = true := by
  rcases captureEdge_cases d ts s with ⟨-, e⟩ | ⟨-, e⟩ <;> rw [e]
  · exact hovf
  · exact deliverBit_ovf_of_ovf hovf _

/-- A byte is fixed by its eight stream positions (R34). -/
theorem frameByte_congr {f g : Frame} {j : Nat} (hj : j < 5)
    (h : ∀ i < 8, frameBit f (8 * j + i) = frameBit g (8 * j + i)) :
    frameByte f j = frameByte g j := by
  refine BitVec.eq_of_getLsbD_eq fun i hi => ?_
  have hbit := h (7 - i) (by omega)
  rwa [← getLsbD_frameByte f hj (by omega), ← getLsbD_frameByte g hj (by omega),
    show 7 - (7 - i) = i by omega] at hbit

/-- A write to a stream position leaves every byte that does not hold it alone (R36). -/
theorem frameByte_frameBitWrite_of_ne (f : Frame) {k j : Nat} (b : Bool) (hk : k < 40) (hj : j < 5)
    (hne : j ≠ k / 8) : frameByte (frameBitWrite f k b) j = frameByte f j :=
  frameByte_congr hj fun i hi => by
    rw [frameBit_frameBitWrite f k _ b hk (by omega), if_neg (by omega)]

/-- Settles O25: outside `Capturing` nothing but the strobes changes, and in `Capturing` the frame is
as before or written at one position. -/
theorem edgeLeavesTheRestAlone : Obligations.EdgeLeavesTheRestAlone := by
  intro s d ts
  by_cases hp : s.phase = .capturing
  · obtain ⟨hhum, htemp, hphase, herr, hcfg, hin, -, -⟩ := captureEdge_kept d ts s.clearStrobes
    refine ⟨_, exec_edge_of_capturing hp d ts, hhum, htemp, hphase, herr, hcfg, hin,
      (captureEdge_ovf_of_ovf (s := s.clearStrobes) · d ts), fun k hk hne => ?_,
      fun j hj hne => ?_⟩ <;>
      rcases captureEdge_frame d ts s.clearStrobes with e | ⟨h3, hd, hlt, b, e⟩ <;> rw [e]
    · rfl
    · exact (frameBit_frameBitWrite _ _ _ b hlt hk).trans
        (if_neg fun hk => hne ⟨hp, h3, hd, hlt, hk⟩)
    · rfl
    · exact frameByte_frameBitWrite_of_ne _ b hlt hj fun hj => hne ⟨hp, h3, hd, hlt, hj⟩
  · exact ⟨_, exec_edge_of_ne_capturing hp d ts, rfl, rfl, rfl, rfl, rfl, rfl, id,
      fun _ _ _ => rfl, fun _ _ _ => rfl⟩

/-! ## The error kinds -/

/-- A verdict that is an error is what the judgement rejects with (R88). -/
theorem judge_of_verdict {s : State} {timeout : Bool} {code : ErrKind}
    (h : s.verdict timeout = code) (hcode : code ≠ .none) : s.judge timeout = s.reject code := by
  rw [judge_eq, h, if_neg hcode]

/-- Settles O39: from 82 events on the flag plays no part; below, both flags reject, each with its own
error. -/
theorem timeoutFlagOnlyNamesTheRejection : Obligations.TimeoutFlagOnlyNamesTheRejection := by
  intro s hp
  by_cases hev : 82 ≤ s.evcnt.toNat
  · have hsame := exec_finish_congr_flag hev true false
    have hfalse := exec_finish_of_capturing hp false
    exact ⟨_, _, hsame.trans hfalse, hfalse, fun _ => rfl, Iff.rfl, fun hne => absurd rfl hne⟩
  · have hshort : s.clearStrobes.evcnt.toNat < 82 := Nat.lt_of_not_le hev
    have htrue := judge_of_verdict
      ((verdict_eq_captureTimeout_iff true s.clearStrobes).2 ⟨rfl, hshort⟩) (by decide)
    have hfalse := judge_of_verdict
      ((verdict_eq_frameLengthError_iff false s.clearStrobes).2 ⟨by simp, .inl hshort⟩)
      (by decide)
    exact ⟨_, _, (exec_finish_of_capturing hp true).trans (congrArg _ htrue),
      (exec_finish_of_capturing hp false).trans (congrArg _ hfalse),
      fun h => absurd h hev, by simp, fun _ => ⟨hshort, rfl, rfl, rfl⟩⟩

/-- What a command other than `FINISH` in `Capturing` leaves in `ERR`: what was there, or 0 (R84). -/
theorem afterCommand_err_cases (i : Instr) (s : State) :
    (afterCommand i s).err = .none ∨ (afterCommand i s).err = s.err ∨
      s.phase = .capturing ∧ ∃ timeout, i = .finish timeout := by
  cases i with
  | start | clear => exact .inl rfl
  | edge d ts =>
    obtain ⟨-, -, -, herr, -⟩ := captureEdge_kept d ts s.clearStrobes
    right; left
    rw [afterCommand]
    split
    · exact herr
    · rfl
  | finish timeout =>
    by_cases hp : s.phase = .capturing
    · exact .inr (.inr ⟨hp, timeout, rfl⟩)
    · exact .inr (.inl (by rw [afterCommand, if_neg hp, State.clearStrobes_err]))
  | nop | rsvd5 | rsvd6 | rsvd7 => exact .inr (.inl rfl)

/-- Settles O46: every other clock edge clears `ERR` or keeps it. -/
theorem onlyFinishInCapturingRaisesAnError : Obligations.OnlyFinishInCapturingRaisesAnError := by
  intro s t hst hnone hnew
  obtain rfl := eq_afterStep_of_step hst
  rcases afterStep_cases s with ⟨-, e⟩ | ⟨i, hi, e⟩ <;> rw [e] at hnone hnew
  · exact absurd rfl hnone
  · rcases afterCommand_err_cases i s.consume with h | h | ⟨hp, timeout, rfl⟩
    · exact absurd h hnone
    · exact absurd h hnew
    · exact ⟨hp, timeout, hi⟩

/-! ## The outcome of a measurement cycle -/

section Captured
variable {s : State} {seen : List Event}

/-- The event counter tells a short window from a full one (R75). -/
theorem State.Captured.evcnt_lt_iff (h : s.Captured seen) :
    s.evcnt.toNat < 82 ↔ seen.length < 82 := by
  have := h.count
  omega

/-- `BITCNT` and `OVF` tell whether the window's sequence has 40 bits (R72, R76). -/
theorem State.Captured.wrongLength_iff (h : s.Captured seen) :
    s.bitcnt.toNat ≠ 40 ∨ s.ovf = true ↔ (batchBits s.cfg seen).length ≠ 40 := by
  obtain ⟨hcount, hovf, -⟩ := h.bits
  rw [hovf, hcount, indexedBits_eq_batchBits]
  omega

/-- Byte `j` that the source packs from a window's sequence, 0 where there is none (R35, R72). -/
def windowByte (c : Config) (window : List Event) (j : Nat) : Nat :=
  (packedBytes (batchBits c window)).getD j 0

/-- The bytes of a frame that holds the window's 40 bits are the source's packed bytes (R35, R72). -/
theorem State.Captured.frameByte_eq (h : s.Captured seen)
    (hlen : (batchBits s.cfg seen).length = 40) {j : Nat} (hj : j < 5) :
    (frameByte s.frame j).toNat = windowByte s.cfg seen j := by
  have hbits := h.bits
  rw [indexedBits_eq_batchBits] at hbits
  have hbyte := packedBytes_getElem?_of_holdsBits hbits (j := j) (by omega)
  rw [windowByte, List.getD_eq_getElem?_getD, hbyte, Option.getD_some]

/-- The checksum of such a frame is that of the packed bytes (R77). -/
theorem State.Captured.checksumOk_iff (h : s.Captured seen)
    (hlen : (batchBits s.cfg seen).length = 40) :
    s.checksumOk = true ↔ windowByte s.cfg seen 4 = (windowByte s.cfg seen 0 +
      windowByte s.cfg seen 1 + windowByte s.cfg seen 2 + windowByte s.cfg seen 3) % 256 := by
  simp only [Machine.checksumOk_iff, h.frameByte_eq hlen, Nat.reduceLT]

/-- The Reading of such a frame is that of the packed bytes (R78). -/
theorem State.Captured.reading_eq (h : s.Captured seen)
    (hlen : (batchBits s.cfg seen).length = 40) :
    (memRead s.frame 0 2).toNat = windowByte s.cfg seen 0 * 256 + windowByte s.cfg seen 1 ∧
      (memRead s.frame 2 2).toNat = windowByte s.cfg seen 2 * 256 + windowByte s.cfg seen 3 := by
  simp only [memRead_two_toNat, h.frameByte_eq hlen, Nat.reduceLT, Nat.reduceLeDiff, Nat.reduceAdd,
    and_self]

/-- The length check fails for the windows that are short or yield another number of bits than 40. -/
theorem State.Captured.frameLengthError_iff (h : s.Captured seen) (timeout : Bool) :
    s.verdict timeout = .frameLengthError ↔ ¬ (seen.length < 82 ∧ timeout = true) ∧
      (seen.length < 82 ∨ (batchBits s.cfg seen).length ≠ 40) := by
  rw [verdict_eq_frameLengthError_iff, h.wrongLength_iff, h.evcnt_lt_iff,
    and_comm (a := timeout = true)]

/-- A full window of 40 bits has the right length (R76). -/
theorem State.Captured.rightLength (h : s.Captured seen) (hev : 82 ≤ seen.length)
    (hlen : (batchBits s.cfg seen).length = 40) : s.rightLength = true := by
  have hshort := h.evcnt_lt_iff
  have hwrong := mt h.wrongLength_iff.1 (not_not.2 hlen)
  simp only [not_or, not_not, Bool.not_eq_true] at hwrong
  exact (rightLength_iff s).2 ⟨by omega, hwrong⟩

end Captured

/-- After `START`, a Capture Window and `FINISH` the block has judged a capture of that window. -/
theorem afterStep_cycle {s : State} {start finish : CmdWord} {ws : List CmdWord}
    {rest : List PortSample} {timeout : Bool} (hstart : decode s.cfg.tsw start = .start)
    (hfinish : decode s.cfg.tsw finish = .finish timeout)
    (hws : ∀ w ∈ ws, insideWindow (decode s.cfg.tsw w) = true)
    (hs : s.inputs =
      commandSample start :: (ws.map commandSample ++ commandSample finish :: rest)) :
    ∃ u : State, u.Captured (eventsOf s.cfg.tsw ws) ∧ u.cfg = s.cfg ∧
      afterStep^[ws.length + 2] s = u.judge timeout := by
  obtain ⟨hcaptured, hcfg, hrest, -⟩ := captured_window hstart hws hs
  refine ⟨_, hcaptured.consume.clearStrobes, hcfg, ?_⟩
  rw [Function.iterate_succ_apply', afterStep_commandSample hrest, hcfg, hfinish, afterCommand,
    if_pos hcaptured.consume.phase]

/-- Settles O40: the capture that `FINISH` judges holds the window's count and sequence, so each check
is a check on the window. -/
theorem cycleOutcomeFollowsFromTheWindow : Obligations.CycleOutcomeFollowsFromTheWindow := by
  intro s start finish ws rest timeout hstart hfinish hws hs
  obtain ⟨u, hu, hcfg, hjudge⟩ := afterStep_cycle hstart hfinish hws hs
  refine ⟨_, core_run_eq _ s, ?_⟩
  rw [hjudge]
  rw [← hcfg] at hu ⊢
  refine ⟨fun ⟨hshort, htime⟩ => ?_, fun htime hwrong => ?_, fun hev hlen hsum => ?_,
    fun hev hlen hsum => ?_⟩
  · have hv := (verdict_eq_captureTimeout_iff timeout u).2 ⟨htime, hu.evcnt_lt_iff.2 hshort⟩
    rw [judge_of_verdict hv (by decide)]
    exact ⟨rfl, rfl, rfl, rfl⟩
  · rw [judge_of_verdict ((hu.frameLengthError_iff timeout).2 ⟨htime, hwrong⟩) (by decide)]
    exact ⟨rfl, rfl, rfl, rfl⟩
  · rw [judge_of_rightLength (hu.rightLength hev hlen), if_neg (mt (hu.checksumOk_iff hlen).1 hsum)]
    exact ⟨rfl, rfl, rfl, rfl⟩
  · rw [judge_of_rightLength (hu.rightLength hev hlen), if_pos ((hu.checksumOk_iff hlen).2 hsum)]
    exact ⟨rfl, rfl, hu.reading_eq hlen⟩

/-! ## The invariants of R33 -/

/-- Settles O41: the reset state is a cleared state. -/
theorem resetStateSatisfiesTheInvariants : Obligations.ResetStateSatisfiesTheInvariants :=
  fun c xs hc => .clearRegisters (s := { State.reset with cfg := c, inputs := xs }) hc

/-- Settles O42: each operation a step is made of keeps the invariants. -/
theorem everyStepKeepsTheInvariants : Obligations.EveryStepKeepsTheInvariants :=
  fun _ _ h hst => h.of_step hst

/-! ## An open capture under the driver's samples -/

theorem afterStep_iterate_cfg (n : Nat) (s : State) : (afterStep^[n] s).cfg = s.cfg := by
  induction n generalizing s with
  | zero => rfl
  | succ n ih => rw [Function.iterate_succ_apply, ih, afterStep_cfg]

theorem afterStep_iterate_inputs (n : Nat) (s : State) :
    (afterStep^[n] s).inputs = s.inputs.drop n := by
  induction n generalizing s with
  | zero => rfl
  | succ n ih => rw [Function.iterate_succ_apply, ih, afterStep_inputs, List.drop_tail]

/-- A command that is neither `CLEAR` nor `FINISH` leaves an open capture open (R63). -/
theorem afterCommand_capturing {i : Instr} {s : State} (hp : s.phase = .capturing)
    (hclear : i ≠ .clear) (hfinish : ∀ timeout, i ≠ .finish timeout) :
    (afterCommand i s).phase = .capturing := by
  obtain ⟨v, -, hphase⟩ := afterCommand_phase i s
  rw [hphase, hp]
  cases i with
  | clear => exact absurd rfl hclear
  | finish timeout => exact absurd rfl (hfinish timeout)
  | _ => rfl

/-- A sample that does not end a capture: no reset, no `CLEAR` and no `FINISH` (R107). -/
def keepsCapture (tsw : Nat) (x : PortSample) : Prop :=
  x.rst = false ∧ decode tsw x.cmd ≠ .clear ∧ ∀ timeout, decode tsw x.cmd ≠ .finish timeout

theorem keepsCapture_idleSample (tsw : Nat) : keepsCapture tsw idleSample := by
  rw [keepsCapture, idleSample, decode_zero]
  exact ⟨rfl, by decide, by decide⟩

theorem afterStep_capturing {s : State} (hp : s.phase = .capturing)
    (hs : keepsCapture s.cfg.tsw s.sample) : (afterStep s).phase = .capturing := by
  obtain ⟨hrst, hclear, hfinish⟩ := hs
  rw [afterStep, hrst, if_neg Bool.false_ne_true]
  exact afterCommand_capturing hp hclear hfinish

/-- While no sample ends the capture, it stays open; past the listed ones `NOP` is sampled (log 5). -/
theorem afterStep_iterate_capturing (k : Nat) {s : State} (hp : s.phase = .capturing)
    (hin : ∀ x ∈ s.inputs, keepsCapture s.cfg.tsw x) : (afterStep^[k] s).phase = .capturing := by
  induction k generalizing s with
  | zero => exact hp
  | succ k ih =>
    have hsample : keepsCapture s.cfg.tsw s.sample := by
      cases hs : s.inputs with
      | nil =>
        have hidle : s.sample = idleSample := congrArg (·.headD idleSample) hs
        exact hidle ▸ keepsCapture_idleSample s.cfg.tsw
      | cons x rest => exact State.sample_of_inputs hs ▸ hin x (by simp [hs])
    refine ih (afterStep_capturing hp hsample) fun x hx => ?_
    rw [afterStep_cfg]
    rw [afterStep_inputs] at hx
    exact hin x (List.mem_of_mem_tail hx)

/-- Settles O50: by induction on the number of clock edges. -/
theorem captureWaitsForItsEnd : Obligations.CaptureWaitsForItsEnd :=
  fun s k hp hin => ⟨_, core_run_eq k s, afterStep_iterate_capturing k hp hin⟩

/-! ## `Bounded` -/

theorem State.commandNow_of_inputs {s : State} {x : PortSample} {rest : List PortSample}
    (hs : s.inputs = x :: rest) (hr : x.rst = false) :
    s.commandNow = some (decode s.cfg.tsw x.cmd) := by
  rw [State.commandNow, State.sample_of_inputs hs, if_neg (ne_true_of_eq_false hr)]

/-- An open capture of a driver that keeps `Bounded` stays open until a `FINISH` among the driver's
samples, by induction on these samples (R107, R112). -/
theorem exists_finish_of_dutyBounded (xs : List PortSample) {s : State} {p : DriverPlace}
    (hp : p ≠ .outside) (hphase : s.phase = .capturing) (hs : s.inputs = xs)
    (hduty : dutyBounded s.cfg.tsw xs p = true) :
    ∃ k timeout, k < xs.length ∧ (∀ j ≤ k, (afterStep^[j] s).phase = .capturing) ∧
      (afterStep^[k] s).commandNow = some (.finish timeout) := by
  induction xs generalizing s p with
  | nil => simp [dutyBounded, hp] at hduty
  | cons x xs ih =>
    obtain ⟨hclears, hrest⟩ := (dutyBounded_cons _ _ _ _).1 hduty
    obtain ⟨hr, hcases⟩ := openCapture_cases (s := s.consume) rfl hp hphase (hclears hp)
    have hnow := State.commandNow_of_inputs hs hr
    rcases hcases with ⟨timeout, hfinish, -⟩ | ⟨-, hplace, hopen⟩
    · refine ⟨0, timeout, Nat.succ_pos _, fun j hj => ?_, hnow.trans (congrArg some hfinish)⟩
      rw [Nat.le_zero.1 hj]
      exact hphase
    · have hstep : afterStep s = afterCommand (decode s.cfg.tsw x.cmd) s.consume :=
        afterStep_of_commandNow_some hnow
      obtain ⟨k, timeout, hk, hopens, hfinish⟩ := ih (s := afterStep s) hplace (hstep ▸ hopen)
        (by rw [afterStep_inputs, hs, List.tail_cons]) (by rw [afterStep_cfg]; exact hrest)
      refine ⟨k + 1, timeout, Nat.succ_lt_succ hk, fun j hj => ?_, hfinish⟩
      cases j with
      | zero => exact hphase
      | succ j => exact hopens j (Nat.le_of_succ_le_succ hj)

/-- The ports after a `FINISH` in `Capturing` show a verdict (R11, R28). -/
theorem outputs_afterStep_finish {s : State} {timeout : Bool} (hp : s.phase = .capturing)
    (hnow : s.commandNow = some (.finish timeout)) :
    (afterStep s).outputs.done = true ∧ ((afterStep s).outputs.valid = true ∨
      (afterStep s).outputs.valid = false ∧ (afterStep s).outputs.err ≠ 0) := by
  have hopen : s.consume.phase = .capturing := hp
  rw [afterStep_of_commandNow_some hnow, afterCommand, if_pos hopen]
  rcases judge_phase timeout s.consume.clearStrobes with hv | ⟨hv, herr⟩
  · simp [State.outputs, State.done, hv]
  · exact ⟨by simp [State.outputs, State.done, hv],
      .inr ⟨by simp [State.outputs, hv], ErrKind.code_ne_zero herr⟩⟩

theorem placeAfter_start {tsw : Nat} {w : CmdWord} (hw : decode tsw w = .start) (p : DriverPlace) :
    placeAfter tsw (commandSample w) p = .opened := by
  rw [placeAfter, commandSample, if_neg Bool.false_ne_true, hw]
  rfl

/-- The state after the samples before a `START` and the `START` itself is an opened cycle (R60). -/
theorem afterStep_iterate_start {s : State} {before after : List PortSample} {w : CmdWord}
    (hs : s.inputs = before ++ commandSample w :: after) (hw : decode s.cfg.tsw w = .start) :
    (afterStep^[before.length + 1] s).phase = .capturing ∧
      (afterStep^[before.length + 1] s).inputs = after := by
  have hin : (afterStep^[before.length] s).inputs = commandSample w :: after := by
    rw [afterStep_iterate_inputs, hs, List.drop_left]
  rw [Function.iterate_succ_apply', afterStep_commandSample hin, afterStep_iterate_cfg, hw]
  exact ⟨rfl, congrArg List.tail hin⟩

/-- A run is cut anywhere into what comes first and what comes after. -/
theorem runSteps_add (m k : Nat) (s : State) :
    runSteps (m + k) s = .next (afterStep^[k] (afterStep^[m] s)) := by
  rw [← Function.iterate_add_apply, Nat.add_comm]
  exact core_run_eq (k + m) s

/-- Settles O51: the `START` opens the capture for the block and for the driver alike. -/
theorem boundedCapturesEndInAVerdict : Obligations.BoundedCapturesEndInAVerdict := by
  intro s before after w hs hw hduty
  rw [hs] at hduty
  obtain ⟨-, hafter⟩ := (dutyBounded_cons _ _ _ _).1 (dutyBounded_append _ _ _ _ hduty)
  rw [placeAfter_start hw, ← afterStep_iterate_cfg (before.length + 1) s] at hafter
  obtain ⟨hopen, hin⟩ := afterStep_iterate_start hs hw
  obtain ⟨k, timeout, hk, hopens, hfinish⟩ :=
    exists_finish_of_dutyBounded after (p := .opened) (by decide) hopen hin hafter
  refine ⟨k, _, timeout, hk, fun j hj => ⟨_, runSteps_add _ j s, hopens j hj, fun hjk => ?_⟩,
    runSteps_add _ (k + 1) s, ?_⟩
  · exact hjk ▸ hfinish
  · rw [Function.iterate_succ_apply']
    exact outputs_afterStep_finish (hopens k le_rfl) hfinish

/-! ## `StartFirst` -/

/-- `StartFirst` of a sequence holds of its end, from the driver's place there. -/
theorem dutyStartFirst_append (tsw : Nat) (xs ys : List PortSample) (p : DriverPlace)
    (h : dutyStartFirst tsw (xs ++ ys) p = true) :
    dutyStartFirst tsw ys (placeAfterAll tsw xs p) = true := by
  induction xs generalizing p with
  | nil => exact h
  | cons x xs ih => exact ih _ (Bool.and_eq_true_iff.1 h).2

/-- Where the driver has a capture open, the block has one: kept by every command (R63, R103). -/
theorem capturing_of_placeAfterCommand {i : Instr} {s : State} {p : DriverPlace}
    (h : p ≠ .outside → s.phase = .capturing) (hp : placeAfterCommand i p ≠ .outside) :
    (afterCommand i s).phase = .capturing := by
  cases i with
  | start => rfl
  | clear => exact absurd rfl hp
  | finish timeout => exact absurd rfl hp
  | edge d ts =>
    refine afterCommand_capturing (h fun hout => hp ?_) (by simp) (fun _ => by simp)
    rw [hout, placeAfterCommand]
    decide
  | nop | rsvd5 | rsvd6 | rsvd7 => exact h hp

/-- Where the driver has a capture open, the block has one: kept by every clock edge (R99, R103). -/
theorem capturing_of_placeAfter {s : State} {x : PortSample} {rest : List PortSample}
    {p : DriverPlace} (hs : s.inputs = x :: rest) (h : p ≠ .outside → s.phase = .capturing)
    (hp : placeAfter s.cfg.tsw x p ≠ .outside) : (afterStep s).phase = .capturing := by
  cases hr : x.rst
  · rw [placeAfter, hr, if_neg Bool.false_ne_true] at hp
    rw [afterStep_of_commandNow_some (State.commandNow_of_inputs hs hr)]
    exact capturing_of_placeAfterCommand (s := s.consume) h hp
  · simp [placeAfter, hr] at hp

/-- Where the driver has a capture open, the block has one: along any sequence of samples. -/
theorem capturing_of_placeAfterAll (xs : List PortSample) {s : State} {rest : List PortSample}
    {p : DriverPlace} (hs : s.inputs = xs ++ rest) (h : p ≠ .outside → s.phase = .capturing)
    (hp : placeAfterAll s.cfg.tsw xs p ≠ .outside) :
    (afterStep^[xs.length] s).phase = .capturing := by
  induction xs generalizing s p with
  | nil => exact h hp
  | cons x xs ih =>
    refine ih (s := afterStep s) (p := placeAfter s.cfg.tsw x p) ?_ (capturing_of_placeAfter hs h) ?_
    · rw [afterStep_inputs, hs]
      rfl
    · rw [afterStep_cfg]
      exact hp

/-- Settles O52: `StartFirst` lets an `EDGE` come only where the driver has a capture open. -/
theorem startFirstLosesNoEvent : Obligations.StartFirstLosesNoEvent := by
  intro s before after w d ts hs _ hw _ hduty
  rw [hs] at hduty
  have hsample := (Bool.and_eq_true_iff.1 (dutyStartFirst_append _ _ _ _ hduty)).1
  have hopen : placeAfterAll s.cfg.tsw before .outside ≠ .outside := by
    simpa [sampleKeepsStartFirst, commandSample, hw, commandKeepsStartFirst] using hsample
  exact ⟨_, core_run_eq _ s, capturing_of_placeAfterAll before hs (fun h => absurd rfl h) hopen⟩

/-! ## `Ordered` -/

theorem adjacentPairs_map {α β : Type} (f : α → β) : ∀ l : List α,
    adjacentPairs (l.map f) = (adjacentPairs l).map (Prod.map f f)
  | [] => rfl
  | [_] => rfl
  | a :: b :: l => congrArg ((f a, f b) :: ·) (adjacentPairs_map f (b :: l))

/-- `Ordered` of a line holds of what follows any of its transitions. -/
theorem dutyOrdered_drop {c : Config} (n : Nat) {line : List Transition}
    (h : dutyOrdered c line = true) : dutyOrdered c (line.drop n) = true := by
  induction n generalizing line with
  | zero => exact h
  | succ n ih =>
    cases line with
    | nil => rfl
    | cons a line =>
      refine ih ?_
      cases line with
      | nil => rfl
      | cons b line => exact (Bool.and_eq_true_iff.1 h).2

/-- `Ordered` is about adjacent transitions (R104, R105). -/
theorem interval_of_dutyOrdered {c : Config} : ∀ {line : List Transition},
    dutyOrdered c line = true → ∀ p ∈ adjacentPairs line,
      p.1.instant < p.2.instant ∧ p.2.instant - p.1.instant < 2 ^ c.tsw
  | a :: b :: line, h, p, hp => by
    obtain ⟨hpair, hrest⟩ := Bool.and_eq_true_iff.1 h
    rcases List.mem_cons.1 hp with rfl | hp
    · simpa using hpair
    · exact interval_of_dutyOrdered hrest p hp

/-- The bit of two transitions less than a turn of the timer apart compares their true interval
(R67, R68). -/
theorem pairBit_sampledEvent {c : Config} (hw : c.tsw ≤ 64) {p : Transition × Transition}
    (hlt : p.1.instant < p.2.instant) (hshort : p.2.instant - p.1.instant < 2 ^ c.tsw) :
    pairBit c (Prod.map (sampledEvent c) (sampledEvent c) p) =
      if p.2.dir = .falling then some (decide (c.threshold < p.2.instant - p.1.instant))
      else none := by
  rw [Prod.map, pairBit_eq_ite]
  simp only [sampledEvent, elapsed_of_instants hw hlt.le hshort, classify]

/-- Settles O53: pair by pair, the sampled timestamps give the true interval. -/
theorem orderedTimestampsGiveTheTrueBits : Obligations.OrderedTimestampsGiveTheTrueBits := by
  intro c line ⟨_, hw, _⟩ hduty
  rw [batchBits, ← List.map_drop, adjacentPairs_map, List.filterMap_map]
  refine List.filterMap_congr fun p hp => ?_
  obtain ⟨hlt, hshort⟩ := interval_of_dutyOrdered (dutyOrdered_drop 2 hduty) p hp
  exact pairBit_sampledEvent hw hlt hshort

end Sys2Proof.Machine
end
